-- ==== Sys2Proof/Word.lean ====
section
/-! DEFINITION. The word types of the register interface and of the host notation (00_scope.md R12). -/

namespace Sys2Proof

/-- A 32-bit register value or host variable (R12, R73). -/
abbrev Word := BitVec 32

/-- A byte of a bus transfer (R41, R42). -/
abbrev Byte := BitVec 8

/-- A 7-bit bus address (R34). -/
abbrev Addr7 := BitVec 7

/-- An SCL count (R35, R36). -/
abbrev Count := BitVec 16

/-- One statement of the host notation (R111). -/
abbrev HostWord := BitVec 64

/-- The index of a host variable, `v0` to `v15` (R240). -/
abbrev VarIx := Fin 16

end Sys2Proof
end

