-- ==== Sys2Proof/Config.lean ====
section
/-! DEFINITION. What an implementation fixes (the parameters of 00_scope.md R10), the names the rules use for registers,
bus events, engine steps and outcome codes, and the free values. -/

namespace Sys2Proof

/-- The two register windows (20_memory.md R70). -/
inductive Window where
  | i2c
  | sys
  deriving DecidableEq, Repr, Inhabited

/-- The mapped registers (10_state.md R56). -/
inductive RegName where
  | con | tar | dataCmd | fsHcnt | fsLcnt | enable | rxflr | enStatus
  | usefpga | gpioA | gpioB
  deriving DecidableEq, Repr, Inhabited

/-- `GAP_MODEL` (41_bus_engine.md R188). -/
inductive GapModel where
  | free
  | bracketed
  deriving DecidableEq, Repr, Inhabited

/-- The parameters of 00_scope.md R10 that no source fixes, and `wrvStartForm`, the model's own: whether a `WRV` of
`DATA_CMD` may write form START, on which R246's pseudocode and its corner case differ (log 21). Plain data, carried in
`State.cfg`; no step changes them (log 1). -/
structure Params where
  i2cBase : Nat
  sysBase : Nat
  offCon : Nat
  offTar : Nat
  offDataCmd : Nat
  offFsHcnt : Nat
  offFsLcnt : Nat
  offEnable : Nat
  offRxflr : Nat
  offEnStatus : Nat
  offUsefpga : Nat
  offGpioA : Nat
  offGpioB : Nat
  startBit : Nat
  conValue : Word
  accelAddr7 : Addr7
  txDepth : Nat
  rxDepth : Nat
  gapModel : GapModel
  assumeAck : Bool
  wrvStartForm : Bool
  deriving DecidableEq, Repr

/-- The direction of a bus transfer (R45). -/
inductive BusDir where
  | w
  | r
  deriving DecidableEq, Repr, Inhabited

/-- The events of the bus log (R45). -/
inductive BusEvent where
  | start (addr : Addr7) (dir : BusDir) (ack : Bool)
  | restart (addr : Addr7) (dir : BusDir) (ack : Bool)
  | tx (b : Byte) (ack : Bool)
  | rx (b : Byte)
  | stop
  deriving DecidableEq, Repr, Inhabited

/-- A phase whose acknowledgement the engine asks for (R173, R174, R175). -/
inductive AckPhase where
  | addr (a : Addr7) (dir : BusDir)
  | data (b : Byte)
  deriving DecidableEq, Repr, Inhabited

/-- The steps of the engine, one for each row of the table of 41_bus_engine.md R170. -/
inductive EngineStep where
  | enableSync | disableSync | takeStart | takeData | takeRead | stop | discard
  deriving DecidableEq, Repr, Inhabited

/-- Which agent's step is taken next (R9, R170). -/
inductive Turn where
  | host
  | engine (e : EngineStep)
  deriving DecidableEq, Repr, Inhabited

/-- The fault codes F1 to F10 (60_exceptions.md R281). -/
inductive FaultCode where
  /-- F1, raised by a read of `DATA_CMD` with the RX FIFO empty (R142). -/
  | rxUnderflow
  /-- F2, raised by a write of `DATA_CMD` with the command FIFO full (R137 to R139). -/
  | cmdOverflow
  /-- F3, raised by a configuration write while `cfgLocked` (R131 to R134). -/
  | configWhileEnabled
  /-- F4, raised by a write of `DATA_CMD` while not enabled (R137 to R139). -/
  | dataCmdWhileDisabled
  /-- F5, raised by the engine when `cfgReady` fails (R179). -/
  | engineUnconfigured
  /-- F6, raised by the engine when the RX FIFO is full (R180). -/
  | rxOverflow
  /-- F7, raised by a host instruction that reads an `Unwritten` variable (R244). -/
  | hostUnwrittenVar
  /-- F8, raised by a taken branch or jump outside the program (R260). -/
  | hostBadTarget
  /-- F9, raised when the host runs off its program (R242). -/
  | hostPcOut
  /-- F10, raised by a write of 1 to `ENABLE` while a disable is pending (R135). -/
  | enableDuringDisable
  deriving DecidableEq, Repr, Inhabited

/-- The refusal codes X1 to X5 (60_exceptions.md R282). -/
inductive RefusalCode where
  /-- X1 (R115, R243). -/
  | undecodableHostWord
  /-- X2 (R101, R148, R243). -/
  | unmappedRegister
  /-- X3 (R102, R104, R146). -/
  | unadmittedWriteValue
  /-- X4 (R147). -/
  | unadmittedRead
  /-- X5 (R73, R74). -/
  | badWidthOrAddress
  deriving DecidableEq, Repr, Inhabited

/-- The information recorded with a code (R281; for the refusals see log 12). -/
inductive Info where
  | reg (r : RegName)
  | regValue (r : RegName) (v : Word)
  | value (v : Word)
  | var (i : VarIx)
  | index (n : Nat)
  | depth (n : Nat)
  | hostWord (w : HostWord)
  | selector (sel : Byte)
  | offset (w : Window) (off : Nat)
  | access (width addr : Nat)
  deriving DecidableEq, Repr, Inhabited

/-- FREE VALUE (R108, R109; log 8): the bits of a read that have no meaning, `draw(n)`, at the `k`-th draw. -/
opaque Config.freeBits (n : Nat) (k : Nat) : BitVec n

/-- FREE VALUE (R9, R170; log 6): which agent's step is taken at the `k`-th free choice. -/
opaque Config.freeTurn (k : Nat) : Turn

/-- FREE VALUE (R183; log 7): the remote device's acknowledgement of a phase, after the bus log so far. -/
opaque Config.freeAck (log : List BusEvent) (p : AckPhase) : Bool

/-- FREE VALUE (R183; log 7): the byte the remote device sends, after the bus log so far. -/
opaque Config.freeByte (log : List BusEvent) : Byte

end Sys2Proof
end

