-- ==== Sys2Proof/Machine/Params.lean ====
section
/-! DEFINITION. The values the source fixes, the register map as a function of the parameters, the constraints of
00_scope.md R11 and the default parameter values of R10 (PRESUMED: the spec takes them from general knowledge, log 2). -/

namespace Sys2Proof

/-- `READ_TOKEN` (R10, R107). -/
def readToken : Word := 0x100#32

/-- `FS_HCNT_VALUE` (R10). -/
def fsHcntValue : Word := 90#32

/-- `FS_LCNT_VALUE` (R10). -/
def fsLcntValue : Word := 160#32

/-- `POLL_OK_LIMIT` (R10). -/
def pollOkLimit : Nat := 10

/-- `POLL_CEILING` (R10). -/
def pollCeiling : Nat := 100

/-- `POLL_SLEEP_MS` (R10: "~1"; log 16). -/
def pollSleepMs : Nat := 1

/-- Every mapped register, in the order of 10_state.md R56. -/
def RegName.all : List RegName :=
  [.con, .tar, .dataCmd, .fsHcnt, .fsLcnt, .enable, .rxflr, .enStatus, .usefpga, .gpioA, .gpioB]

/-- The window of a register (R56). -/
def RegName.window : RegName → Window
  | .con => .i2c
  | .tar => .i2c
  | .dataCmd => .i2c
  | .fsHcnt => .i2c
  | .fsLcnt => .i2c
  | .enable => .i2c
  | .rxflr => .i2c
  | .enStatus => .i2c
  | .usefpga => .sys
  | .gpioA => .sys
  | .gpioB => .sys

/-- The word offset of a register in its window (R10, R56, R71). -/
def Params.offset (P : Params) : RegName → Nat
  | .con => P.offCon
  | .tar => P.offTar
  | .dataCmd => P.offDataCmd
  | .fsHcnt => P.offFsHcnt
  | .fsLcnt => P.offFsLcnt
  | .enable => P.offEnable
  | .rxflr => P.offRxflr
  | .enStatus => P.offEnStatus
  | .usefpga => P.offUsefpga
  | .gpioA => P.offGpioA
  | .gpioB => P.offGpioB

/-- The physical base of a window (R70). -/
def Params.base (P : Params) : Window → Nat
  | .i2c => P.i2cBase
  | .sys => P.sysBase

/-- The physical byte address of a register, `BASE_w + 4*off` (R71). -/
def Params.address (P : Params) (r : RegName) : Nat := P.base r.window + 4 * P.offset r

/-- The register at a word offset of a window, if one is mapped there (R72, R101 step 1). -/
def Params.registerAt (P : Params) (w : Window) (off : Nat) : Option RegName :=
  RegName.all.find? fun r => decide (r.window = w ∧ P.offset r = off)

/-- The register at a physical byte address, if one is mapped there (R71, R74). -/
def Params.registerAtAddress (P : Params) (addr : Nat) : Option RegName :=
  RegName.all.find? fun r => decide (P.address r = addr)

/-- `START_FLAG = 2^START_BIT` (R11). -/
def Params.startFlag (P : Params) : Word := 1#32 <<< P.startBit

/-- The constraints every instance of the parameters meets (R11): offsets of one window pairwise distinct, the
START flag clear of the byte and of the read bit, both FIFOs at least one deep, the handshake limits ordered. The bound
on `ACCEL_ADDR7` is its type. -/
def Params.wf (P : Params) : Bool :=
  decide (List.Pairwise (fun a b => P.offset a ≠ P.offset b)
    [.con, .tar, .dataCmd, .fsHcnt, .fsLcnt, .enable, .rxflr, .enStatus])
  && decide (List.Pairwise (fun a b => P.offset a ≠ P.offset b) [RegName.usefpga, .gpioA, .gpioB])
  && decide (9 ≤ P.startBit) && decide (P.startBit ≤ 31)
  && decide (1 ≤ P.txDepth) && decide (1 ≤ P.rxDepth)
  && decide (pollOkLimit ≤ pollCeiling)

/-- The default values of R10's table (PRESUMED, log 2): the family is the DesignWare APB I2C of the Cyclone V. A `WRV`
may write form START, as R246's pseudocode says (DESIGN CHOICE, log 21). -/
def Params.default : Params where
  i2cBase := 0xFFC04000
  sysBase := 0xFFD08000
  offCon := 0
  offTar := 1
  offDataCmd := 4
  offFsHcnt := 7
  offFsLcnt := 8
  offEnable := 27
  offRxflr := 30
  offEnStatus := 39
  offUsefpga := 449
  offGpioA := 295
  offGpioB := 296
  startBit := 10
  conValue := 0x65#32
  accelAddr7 := 0x53#7
  txDepth := 64
  rxDepth := 64
  gapModel := .free
  assumeAck := false
  wrvStartForm := true

end Sys2Proof
end

