-- ==== Sys2Proof/Syntax.lean ====
section
/-! DEFINITION. The instructions: one constructor per row of spec/opcode_table.json. -/

namespace Sys2Proof

/-- An instruction of this hardware: a register access of 40_register_access.md (the first fifteen) or a
statement of the host notation of 43_host_program.md (the other eighteen). -/
inductive Instr where
  /-- `W_CON` (R131): write `CON_VALUE` to the control register. -/
  | wCon
  /-- `W_TAR` (R132): write the target address. -/
  | wTar (a : Addr7)
  /-- `W_FS_HCNT` (R133): write the SCL high count. -/
  | wFsHcnt (c : Count)
  /-- `W_FS_LCNT` (R134): write the SCL low count. -/
  | wFsLcnt (c : Count)
  /-- `W_ENABLE_ON` (R135): request the Enabled state. -/
  | wEnableOn
  /-- `W_ENABLE_OFF` (R136): request the Disabled state, with abort. -/
  | wEnableOff
  /-- `W_DATA_CMD_START` (R137): push a START entry. -/
  | wDataCmdStart (a : Byte)
  /-- `W_DATA_CMD_DATA` (R138): push a data byte. -/
  | wDataCmdData (d : Byte)
  /-- `W_DATA_CMD_READ` (R139): push a read request. -/
  | wDataCmdRead
  /-- `R_EN_STATUS` (R140): read the enable status. -/
  | rEnStatus
  /-- `R_RXFLR` (R141): read the RX-FIFO level. -/
  | rRxflr
  /-- `R_DATA_CMD` (R142): pop one received byte. -/
  | rDataCmd
  /-- `W_SYS_USEFPGA` (R143). -/
  | wSysUsefpga
  /-- `W_SYS_GPIO_A` (R144). -/
  | wSysGpioA
  /-- `W_SYS_GPIO_B` (R145). -/
  | wSysGpioB
  /-- `WRI sel, imm` (R245). -/
  | wri (sel : Byte) (imm : Word)
  /-- `WRV sel, vs` (R246). -/
  | wrv (sel : Byte) (vs : VarIx)
  /-- `RD vd, sel` (R247). -/
  | rd (vd : VarIx) (sel : Byte)
  /-- `MOVI vd, imm` (R248). -/
  | movi (vd : VarIx) (imm : Word)
  /-- `ADDI vd, vs, imm` (R249). -/
  | addi (vd vs : VarIx) (imm : Word)
  /-- `ANDI vd, vs, imm` (R251). -/
  | andi (vd vs : VarIx) (imm : Word)
  /-- `ORI vd, vs, imm` (R252). -/
  | ori (vd vs : VarIx) (imm : Word)
  /-- `OR vd, vs, vt` (R253). -/
  | or (vd vs vt : VarIx)
  /-- `SHLI vd, vs, imm` (R254), legal for `imm <= 31`. -/
  | shli (vd vs : VarIx) (imm : Word)
  /-- `ADD vd, vs, vt` (R255). -/
  | add (vd vs vt : VarIx)
  /-- `BEQ vs, vt, L` (R256). -/
  | beq (vs vt : VarIx) (target : Word)
  /-- `BNE vs, vt, L` (R257). -/
  | bne (vs vt : VarIx) (target : Word)
  /-- `BLTU vs, vt, L` (R258). -/
  | bltu (vs vt : VarIx) (target : Word)
  /-- `JMP L` (R259). -/
  | jmp (target : Word)
  /-- `SLEEP imm` (R262). -/
  | sleep (imm : Word)
  /-- `TXB` (R263). -/
  | txb
  /-- `TXE` (R263). -/
  | txe
  /-- `HALT` (R261). -/
  | halt
  deriving DecidableEq, Repr

end Sys2Proof
end

