-- ==== Sys2Proof/WellFormed.lean ====
section
/-! DEFINITION. Which instructions the encodings admit. The operand types already bound every field but the
shift amount of `SHLI` (30_encoding.md R114, R115). A selector outside R113 is legal in a word: it is refused only
when the statement executes (R243). -/

namespace Sys2Proof

/-- An instruction some word or bus operation stands for: a `SHLI` shifts by at most 31 (R115). -/
def Instr.wellFormed : Instr → Bool
  | .shli _ _ imm => decide (imm.toNat ≤ 31)
  | .wCon => true | .wTar _ => true | .wFsHcnt _ => true | .wFsLcnt _ => true
  | .wEnableOn => true | .wEnableOff => true
  | .wDataCmdStart _ => true | .wDataCmdData _ => true | .wDataCmdRead => true
  | .rEnStatus => true | .rRxflr => true | .rDataCmd => true
  | .wSysUsefpga => true | .wSysGpioA => true | .wSysGpioB => true
  | .wri _ _ => true | .wrv _ _ => true | .rd _ _ => true
  | .movi _ _ => true | .addi _ _ _ => true | .andi _ _ _ => true | .ori _ _ _ => true
  | .or _ _ _ => true | .add _ _ _ => true
  | .beq _ _ _ => true | .bne _ _ _ => true | .bltu _ _ _ => true | .jmp _ => true
  | .sleep _ => true | .txb => true | .txe => true | .halt => true

/-- Whether the instruction is a register access of its own (format bus32) rather than a host statement. -/
def Instr.isBus : Instr → Bool
  | .wCon => true | .wTar _ => true | .wFsHcnt _ => true | .wFsLcnt _ => true
  | .wEnableOn => true | .wEnableOff => true
  | .wDataCmdStart _ => true | .wDataCmdData _ => true | .wDataCmdRead => true
  | .rEnStatus => true | .rRxflr => true | .rDataCmd => true
  | .wSysUsefpga => true | .wSysGpioA => true | .wSysGpioB => true
  | .wri _ _ => false | .wrv _ _ => false | .rd _ _ => false
  | .movi _ _ => false | .addi _ _ _ => false | .andi _ _ _ => false | .ori _ _ _ => false
  | .or _ _ _ => false | .shli _ _ _ => false | .add _ _ _ => false
  | .beq _ _ _ => false | .bne _ _ _ => false | .bltu _ _ _ => false | .jmp _ => false
  | .sleep _ => false | .txb => false | .txe => false | .halt => false

end Sys2Proof
end

