-- ==== Sys2Proof/Decode.lean ====
section
/-! DEFINITION. The two decoders of 30_encoding.md (bus operations R100 to R110, host words R111 to R116), total and
rejecting by code, and after them the encoders, written from the same tables. -/

namespace Sys2Proof

/-- A bus operation `(dir, window, off, data)` (R100): a read has no data. -/
inductive BusOp where
  | read (w : Window) (off : Nat)
  | write (w : Window) (off : Nat) (data : Word)
  deriving DecidableEq, Repr

/-- The write forms of the register map (R102). -/
inductive WriteForm where
  | con
  | tar (a : Addr7)
  | fsHcnt (c : Count)
  | fsLcnt (c : Count)
  | enableOn
  | enableOff
  | start (a : Byte)
  | data (d : Byte)
  | read
  | usefpga
  | gpioA
  | gpioB
  deriving DecidableEq, Repr

/-- The read forms of the register map (R103). -/
inductive ReadForm where
  | enStatus
  | rxflr
  | dataCmd
  deriving DecidableEq, Repr

/-- Why a decoder rejects: the refusal code and its information. -/
abbrev Rejection := RefusalCode × Info

/-- What an instruction is encoded as: a bus operation or a host word. -/
inductive Code where
  | bus (op : BusOp)
  | host (w : HostWord)
  deriving DecidableEq, Repr

/-! ### Bus operations -/

/-- Every bit of a `DATA_CMD` value that is neither the byte, nor bit 8, nor the START bit (`rest` of R104). -/
def Params.cmdRest (P : Params) (v : Word) : Word := v &&& ~~~(0x1FF#32 ||| P.startFlag)

/-- The command/data value (R104 to R107). -/
def decodeCmd (P : Params) (v : Word) : Except Rejection WriteForm :=
  if P.cmdRest v ≠ 0#32 then .error (.unadmittedWriteValue, .value v)
  else if v.getLsbD 8 = false ∧ v.getLsbD P.startBit = true then .ok (.start (v.extractLsb' 0 8))
  else if v.getLsbD 8 = false ∧ v.getLsbD P.startBit = false then .ok (.data (v.extractLsb' 0 8))
  else if v.getLsbD P.startBit = false ∧ v.extractLsb' 0 8 = 0#8 then .ok .read
  else .error (.unadmittedWriteValue, .value v)

/-- The rejection of a write value, with the register and the value (R131: `refuse(X3, (CON, data))`). -/
def badValue (r : RegName) (v : Word) : Except Rejection WriteForm := .error (.unadmittedWriteValue, .regValue r v)

/-- R101 steps 2 and 3 of a write: the admitted values of each register (R102). -/
def decodeWrite (P : Params) (r : RegName) (v : Word) : Except Rejection WriteForm :=
  match r with
  | .con => if v = P.conValue then .ok .con else badValue .con v
  | .tar => if v.extractLsb' 7 25 = 0#25 then .ok (.tar (v.extractLsb' 0 7)) else badValue .tar v
  | .fsHcnt => if v.extractLsb' 16 16 = 0#16 then .ok (.fsHcnt (v.extractLsb' 0 16)) else badValue .fsHcnt v
  | .fsLcnt => if v.extractLsb' 16 16 = 0#16 then .ok (.fsLcnt (v.extractLsb' 0 16)) else badValue .fsLcnt v
  | .enable => if v = 1#32 then .ok .enableOn else if v = 2#32 then .ok .enableOff else badValue .enable v
  | .dataCmd => decodeCmd P v
  | .rxflr => badValue .rxflr v
  | .enStatus => badValue .enStatus v
  | .usefpga => if v = 0#32 then .ok .usefpga else badValue .usefpga v
  | .gpioA => if v = 1#32 then .ok .gpioA else badValue .gpioA v
  | .gpioB => if v = 1#32 then .ok .gpioB else badValue .gpioB v

/-- The write of a `WRV` (R246), decoded: by R101, but where `wrvStartForm` does not hold a variable above 0xFF and not
0x100 is no value of `DATA_CMD`, as R246's corner case says (log 21). -/
def decodeVarWrite (P : Params) (r : RegName) (v : Word) : Except Rejection WriteForm :=
  if P.wrvStartForm = false ∧ r = .dataCmd ∧ 0xFF < v.toNat ∧ v ≠ 0x100#32 then .error (.unadmittedWriteValue, .value v)
  else decodeWrite P r v

/-- R101 step 2 of a read (R103, R147). -/
def decodeRead (r : RegName) : Except Rejection ReadForm :=
  match r with
  | .enStatus => .ok .enStatus
  | .rxflr => .ok .rxflr
  | .dataCmd => .ok .dataCmd
  | .con => .error (.unadmittedRead, .reg .con)
  | .tar => .error (.unadmittedRead, .reg .tar)
  | .fsHcnt => .error (.unadmittedRead, .reg .fsHcnt)
  | .fsLcnt => .error (.unadmittedRead, .reg .fsLcnt)
  | .enable => .error (.unadmittedRead, .reg .enable)
  | .usefpga => .error (.unadmittedRead, .reg .usefpga)
  | .gpioA => .error (.unadmittedRead, .reg .gpioA)
  | .gpioB => .error (.unadmittedRead, .reg .gpioB)

/-- The instruction of a write form (R102's form names). -/
def WriteForm.toInstr : WriteForm → Instr
  | .con => .wCon
  | .tar a => .wTar a
  | .fsHcnt c => .wFsHcnt c
  | .fsLcnt c => .wFsLcnt c
  | .enableOn => .wEnableOn
  | .enableOff => .wEnableOff
  | .start a => .wDataCmdStart a
  | .data d => .wDataCmdData d
  | .read => .wDataCmdRead
  | .usefpga => .wSysUsefpga
  | .gpioA => .wSysGpioA
  | .gpioB => .wSysGpioB

/-- The instruction of a read form (R103). -/
def ReadForm.toInstr : ReadForm → Instr
  | .enStatus => .rEnStatus
  | .rxflr => .rRxflr
  | .dataCmd => .rDataCmd

/-- An access to a named register: R101 steps 2 and 3. `data` is `none` for a read. -/
def decodeAccess (P : Params) (r : RegName) (data : Option Word) : Except Rejection Instr :=
  match data with
  | none => (decodeRead r).map ReadForm.toInstr
  | some v => (decodeWrite P r v).map WriteForm.toInstr

/-- R101: a bus operation, decoded. Total; an unmapped offset is X2. -/
def decodeBus (P : Params) (op : BusOp) : Except Rejection Instr :=
  match op with
  | .read w off =>
    match P.registerAt w off with
    | none => .error (.unmappedRegister, .offset w off)
    | some r => decodeAccess P r none
  | .write w off v =>
    match P.registerAt w off with
    | none => .error (.unmappedRegister, .offset w off)
    | some r => decodeAccess P r (some v)

/-- The selector of each register in the host notation (R113). -/
def RegName.selector : RegName → Byte
  | .con => 0x00#8
  | .tar => 0x01#8
  | .dataCmd => 0x02#8
  | .fsHcnt => 0x03#8
  | .fsLcnt => 0x04#8
  | .enable => 0x05#8
  | .rxflr => 0x06#8
  | .enStatus => 0x07#8
  | .usefpga => 0x10#8
  | .gpioA => 0x11#8
  | .gpioB => 0x12#8

/-- The register a selector names, if any (R113). -/
def selectorRegister (sel : Byte) : Option RegName := RegName.all.find? fun r => r.selector == sel

/-! ### Host words -/

/-- `op`, bits 63:56 (R111). -/
def fieldOp (w : HostWord) : Byte := w.extractLsb' 56 8

/-- `d`, bits 55:52. -/
def fieldD (w : HostWord) : VarIx := (w.extractLsb' 52 4).toFin

/-- `s`, bits 51:48. -/
def fieldS (w : HostWord) : VarIx := (w.extractLsb' 48 4).toFin

/-- `t`, bits 47:44. -/
def fieldT (w : HostWord) : VarIx := (w.extractLsb' 44 4).toFin

/-- `z`, bits 43:40, which must be 0. -/
def fieldZ (w : HostWord) : BitVec 4 := w.extractLsb' 40 4

/-- `sel`, bits 39:32. -/
def fieldSel (w : HostWord) : Byte := w.extractLsb' 32 8

/-- `imm`, bits 31:0. -/
def fieldImm (w : HostWord) : Word := w.extractLsb' 0 32

/-- Which fields an opcode uses (R112); the others must be 0. -/
structure Uses where
  d : Bool := false
  s : Bool := false
  t : Bool := false
  sel : Bool := false
  imm : Bool := false
  deriving DecidableEq, Repr

/-- R112 and R115: every unused field and `z` are 0. -/
def unusedZero (u : Uses) (w : HostWord) : Bool :=
  (u.d || fieldD w == 0) && (u.s || fieldS w == 0) && (u.t || fieldT w == 0) && (fieldZ w == 0#4)
    && (u.sel || fieldSel w == 0#8) && (u.imm || fieldImm w == 0#32)

/-- The opcodes of the host notation (R112). -/
inductive HostOp where
  | wri | wrv | rd | movi | addi | andi | ori | or | shli | add | beq | bne | bltu | jmp | sleep | txb | txe | halt
  deriving DecidableEq, Repr

/-- Every opcode. -/
def hostOps : List HostOp :=
  [.wri, .wrv, .rd, .movi, .addi, .andi, .ori, .or, .shli, .add, .beq, .bne, .bltu, .jmp, .sleep, .txb, .txe, .halt]

/-- The `op` column of R112. -/
def HostOp.byte : HostOp → Byte
  | .wri => 0x01#8
  | .wrv => 0x02#8
  | .rd => 0x03#8
  | .movi => 0x10#8
  | .addi => 0x11#8
  | .andi => 0x12#8
  | .ori => 0x13#8
  | .or => 0x14#8
  | .shli => 0x15#8
  | .add => 0x16#8
  | .beq => 0x20#8
  | .bne => 0x21#8
  | .bltu => 0x22#8
  | .jmp => 0x23#8
  | .sleep => 0x30#8
  | .txb => 0x31#8
  | .txe => 0x32#8
  | .halt => 0x3F#8

/-- The "fields used" column of R112. -/
def HostOp.uses : HostOp → Uses
  | .wri => { sel := true, imm := true }
  | .wrv => { s := true, sel := true }
  | .rd => { d := true, sel := true }
  | .movi => { d := true, imm := true }
  | .addi => { d := true, s := true, imm := true }
  | .andi => { d := true, s := true, imm := true }
  | .ori => { d := true, s := true, imm := true }
  | .or => { d := true, s := true, t := true }
  | .shli => { d := true, s := true, imm := true }
  | .add => { d := true, s := true, t := true }
  | .beq => { s := true, t := true, imm := true }
  | .bne => { s := true, t := true, imm := true }
  | .bltu => { s := true, t := true, imm := true }
  | .jmp => { imm := true }
  | .sleep => { imm := true }
  | .txb => {}
  | .txe => {}
  | .halt => {}

/-- The "operands" column of R112: the instruction of an opcode and the fields. -/
def HostOp.build (o : HostOp) (d s t : VarIx) (sel : Byte) (imm : Word) : Instr :=
  match o with
  | .wri => .wri sel imm
  | .wrv => .wrv sel s
  | .rd => .rd d sel
  | .movi => .movi d imm
  | .addi => .addi d s imm
  | .andi => .andi d s imm
  | .ori => .ori d s imm
  | .or => .or d s t
  | .shli => .shli d s imm
  | .add => .add d s t
  | .beq => .beq s t imm
  | .bne => .bne s t imm
  | .bltu => .bltu s t imm
  | .jmp => .jmp imm
  | .sleep => .sleep imm
  | .txb => .txb
  | .txe => .txe
  | .halt => .halt

/-- The opcode a byte is, if any (R112). -/
def hostOp (b : Byte) : Option HostOp := hostOps.find? fun o => o.byte == b

/-- The instruction a word's fields spell under an opcode. -/
def HostOp.read (o : HostOp) (w : HostWord) : Instr :=
  o.build (fieldD w) (fieldS w) (fieldT w) (fieldSel w) (fieldImm w)

/-- R112, R115: a host word, decoded. Total; a word with an unknown opcode, an unused field or `z` not 0, or a shift by
more than 31, is X1. -/
def decodeHost (w : HostWord) : Except Rejection Instr :=
  match hostOp (fieldOp w) with
  | none => .error (.undecodableHostWord, .hostWord w)
  | some o =>
    if unusedZero o.uses w && (o.read w).wellFormed then .ok (o.read w)
    else .error (.undecodableHostWord, .hostWord w)

/-- Either encoding, decoded. -/
def decode (P : Params) (c : Code) : Except Rejection Instr :=
  match c with
  | .bus op => decodeBus P op
  | .host w => decodeHost w

/-! ### The encoders -/

/-- A host word from its fields (R111), `z` being 0. -/
def packHost (op : Byte) (d s t : VarIx) (sel : Byte) (imm : Word) : HostWord :=
  op ++ BitVec.ofFin (w := 4) d ++ BitVec.ofFin (w := 4) s ++ BitVec.ofFin (w := 4) t ++ 0#4 ++ sel ++ imm

/-- The bus operation that writes `v` to a register. -/
def Params.writeOp (P : Params) (r : RegName) (v : Word) : BusOp := .write r.window (P.offset r) v

/-- The bus operation that reads a register. -/
def Params.readOp (P : Params) (r : RegName) : BusOp := .read r.window (P.offset r)

/-- `address | START_FLAG` (R105). -/
def Params.startValue (P : Params) (a : Byte) : Word := a.setWidth 32 ||| P.startFlag

/-- The encoding of an instruction: R102 to R107 for a bus operation, R112 for a host word. -/
def encode (P : Params) : Instr → Code
  | .wCon => .bus (P.writeOp .con P.conValue)
  | .wTar a => .bus (P.writeOp .tar (a.setWidth 32))
  | .wFsHcnt c => .bus (P.writeOp .fsHcnt (c.setWidth 32))
  | .wFsLcnt c => .bus (P.writeOp .fsLcnt (c.setWidth 32))
  | .wEnableOn => .bus (P.writeOp .enable 1#32)
  | .wEnableOff => .bus (P.writeOp .enable 2#32)
  | .wDataCmdStart a => .bus (P.writeOp .dataCmd (P.startValue a))
  | .wDataCmdData d => .bus (P.writeOp .dataCmd (d.setWidth 32))
  | .wDataCmdRead => .bus (P.writeOp .dataCmd readToken)
  | .rEnStatus => .bus (P.readOp .enStatus)
  | .rRxflr => .bus (P.readOp .rxflr)
  | .rDataCmd => .bus (P.readOp .dataCmd)
  | .wSysUsefpga => .bus (P.writeOp .usefpga 0#32)
  | .wSysGpioA => .bus (P.writeOp .gpioA 1#32)
  | .wSysGpioB => .bus (P.writeOp .gpioB 1#32)
  | .wri sel imm => .host (packHost 0x01#8 0 0 0 sel imm)
  | .wrv sel vs => .host (packHost 0x02#8 0 vs 0 sel 0#32)
  | .rd vd sel => .host (packHost 0x03#8 vd 0 0 sel 0#32)
  | .movi vd imm => .host (packHost 0x10#8 vd 0 0 0#8 imm)
  | .addi vd vs imm => .host (packHost 0x11#8 vd vs 0 0#8 imm)
  | .andi vd vs imm => .host (packHost 0x12#8 vd vs 0 0#8 imm)
  | .ori vd vs imm => .host (packHost 0x13#8 vd vs 0 0#8 imm)
  | .or vd vs vt => .host (packHost 0x14#8 vd vs vt 0#8 0#32)
  | .shli vd vs imm => .host (packHost 0x15#8 vd vs 0 0#8 imm)
  | .add vd vs vt => .host (packHost 0x16#8 vd vs vt 0#8 0#32)
  | .beq vs vt l => .host (packHost 0x20#8 0 vs vt 0#8 l)
  | .bne vs vt l => .host (packHost 0x21#8 0 vs vt 0#8 l)
  | .bltu vs vt l => .host (packHost 0x22#8 0 vs vt 0#8 l)
  | .jmp l => .host (packHost 0x23#8 0 0 0 0#8 l)
  | .sleep ms => .host (packHost 0x30#8 0 0 0 0#8 ms)
  | .txb => .host (packHost 0x31#8 0 0 0 0#8 0#32)
  | .txe => .host (packHost 0x32#8 0 0 0 0#8 0#32)
  | .halt => .host (packHost 0x3F#8 0 0 0 0#8 0#32)

/-! ### Reading a word of the opcode table -/

/-- A row of the opcode table's bus32 write forms: the bits it fixes and the register it writes. -/
structure TableRow where
  mask : Word
  pattern : Word
  reg : RegName
  deriving DecidableEq, Repr

/-- The bus32 write rows, rows that fix more bits first and otherwise in table order (log 13). -/
def tableRows : List TableRow :=
  [ ⟨0xFFFFFFFF#32, 0x065#32, .con⟩, ⟨0xFFFFFFFF#32, 0x001#32, .enable⟩, ⟨0xFFFFFFFF#32, 0x002#32, .enable⟩,
    ⟨0xFFFFFFFF#32, 0x100#32, .dataCmd⟩, ⟨0xFFFFFFFF#32, 0x000#32, .usefpga⟩, ⟨0xFFFFFFFF#32, 0x001#32, .gpioA⟩,
    ⟨0xFFFFFFFF#32, 0x001#32, .gpioB⟩, ⟨0xFFFFFF80#32, 0x000#32, .tar⟩, ⟨0xFFFFFF00#32, 0x400#32, .dataCmd⟩,
    ⟨0xFFFFFF00#32, 0x000#32, .dataCmd⟩, ⟨0xFFFF0000#32, 0x000#32, .fsHcnt⟩, ⟨0xFFFF0000#32, 0x000#32, .fsLcnt⟩ ]

/-- The register a bare 32-bit data word of the table is taken to be written to: the first row that fits, else
`DATA_CMD`. A data word alone does not name its register (R100); log 13. -/
def tableRegister (v : Word) : RegName :=
  match tableRows.find? fun r => decide (v &&& r.mask = r.pattern) with
  | some r => r.reg
  | none => .dataCmd

/-- What an instruction of `nbits` bits that are `w`, numbered as the opcode table numbers them, is: 64 bits are a host
word (R111), any other number up to 32 the data word of a write, no bits at all a read (log 13). -/
def tableCode (P : Params) (nbits w : Nat) : Code :=
  if nbits = 0 then .bus (P.readOp .enStatus)
  else if nbits ≤ 32 then .bus (P.writeOp (tableRegister (BitVec.ofNat 32 w)) (BitVec.ofNat 32 w))
  else .host (BitVec.ofNat 64 w)

/-- The instruction this decoder reads from a row of the opcode table, at the default parameters. -/
def decodeTableWord (nbits w : Nat) : Option Instr :=
  match decode Params.default (tableCode Params.default nbits w) with
  | .ok i => some i
  | .error _ => none

end Sys2Proof
end

