-- ==== Sys2Proof/Machine/State.lean ====
section
/-! DEFINITION. The state (10_state.md R30): the controller, the system-manager routing registers, the host and the
outcome record, with the parameters and the program of the run and the model's own inputs beside them. Plain data. -/

namespace Sys2Proof.Machine

/-- A register or variable as the spec holds it: `Unwritten | Written(v)` (R31). `Unwritten` is the spec's own value,
the one R311 and R313 give at launch, not a missing one (log 3). -/
inductive Reg (α : Type) where
  | unwritten
  | written (v : α)
  deriving DecidableEq, Repr

/-- An entry of the command FIFO (R41). -/
inductive CmdEntry where
  | wr (b : Byte) (start : Bool)
  | rd
  deriving DecidableEq, Repr

/-- The engine's transaction phase (R43). -/
inductive Phase where
  | idle
  | write
  | read
  deriving DecidableEq, Repr

/-- The controller window and the controller's internal state (R32 to R45). `ENABLE`, `EN_STATUS`, `DATA_CMD` and
`RXFLR` store nothing of their own (R37 to R40). -/
structure Controller where
  con : Reg Word
  tar : Reg Addr7
  hcnt : Reg Count
  lcnt : Reg Count
  enReq : Bool
  enStatus : Bool
  cmdFifo : List CmdEntry
  rxFifo : List Byte
  phase : Phase
  abortLatch : Bool
  busLog : List BusEvent
  deriving DecidableEq, Repr

/-- The system-manager routing registers (R47). -/
structure SysManager where
  usefpga : Reg Word
  gpioA : Reg Word
  gpioB : Reg Word
  deriving DecidableEq, Repr

/-- The host (R48). -/
structure HostState where
  pc : Nat
  vars : Vector (Reg Word) 16
  halted : Bool
  inTxn : Bool
  deriving DecidableEq, Repr

/-- The outcome record (R49). -/
structure OutcomeRecord where
  fault : Option (FaultCode × Info)
  refused : Option (RefusalCode × Info)
  deriving DecidableEq, Repr

/-- An access at a physical byte address, of any width (R73, R74): what a host interface can express beyond R100. -/
structure PhysAccess where
  width : Nat
  addr : Nat
  data : Option Word
  deriving DecidableEq, Repr

/-- An access the host performs without a host program (R117): a bus operation, or one at a physical address. -/
inductive HostAccess where
  | bus (op : BusOp)
  | phys (a : PhysAccess)
  deriving DecidableEq, Repr

/-- The model's own inputs, none of them the spec's state: the accesses still to be performed and the result of the
last read among them (log 9), the schedule (log 6), the given oracle answers (log 7), the count of free values
taken (log 6, log 8). -/
structure Env where
  accesses : List HostAccess
  result : Word
  sched : List Turn
  acks : List Bool
  rxBytes : List Byte
  draws : Nat
  deriving DecidableEq, Repr

/-- The state of the machine (R30). `cfg` and `prog` are parameters of the run that no step changes (log 1, log 4). -/
structure State where
  cfg : Params
  prog : List HostWord
  ctl : Controller
  sys : SysManager
  host : HostState
  out : OutcomeRecord
  env : Env
  deriving DecidableEq, Repr

/-- Why a step stops. Raised by `step` alone: an instruction that faults answers a next state with the fault
recorded, as R284 says. -/
inductive Fault where
  /-- `step` at a state whose outcome record holds a fault: "After that no agent takes a step" (R284). Safe. -/
  | faultRecorded (code : FaultCode) (info : Info)
  /-- `step` at a state where the host has no step and the engine none either: the run is over (R271). Safe. -/
  | noAgentHasStep
  deriving DecidableEq, Repr

/-- Why a step is refused. -/
inductive Refusal where
  /-- An arm of `exec` without a meaning. No arm answers it in this model. Safe. -/
  | notModelled (mnemonic : String)
  /-- `step` at a state whose outcome record holds a refusal: "After that no agent takes a step" (R285). Safe. -/
  | refusalRecorded (code : RefusalCode) (info : Info)
  deriving DecidableEq, Repr

/-- The controller at `ResetLaunch` (R311). -/
def Controller.reset : Controller where
  con := .unwritten
  tar := .unwritten
  hcnt := .unwritten
  lcnt := .unwritten
  enReq := false
  enStatus := false
  cmdFifo := []
  rxFifo := []
  phase := .idle
  abortLatch := false
  busLog := []

/-- The host at launch (R313). -/
def HostState.reset : HostState where
  pc := 0
  vars := Vector.replicate 16 .unwritten
  halted := false
  inTxn := false

/-- The state right after reset: `ResetLaunch` (R311, R313), at the default parameters (log 2), with no program loaded
(log 4), the host's turn first (log 6) and no input given (log 7, log 8, log 9). -/
def State.reset : State where
  cfg := Params.default
  prog := []
  ctl := Controller.reset
  sys := { usefpga := .unwritten, gpioA := .unwritten, gpioB := .unwritten }
  host := HostState.reset
  out := { fault := none, refused := none }
  env := { accesses := [], result := 0#32, sched := [.host], acks := [], rxBytes := [], draws := 0 }

end Sys2Proof.Machine
end

