-- ==== Sys2Proof/Machine/Ops.lean ====
section
/-! DEFINITION. The named operations over the state: raising a fault and refusing (60_exceptions.md R284, R285), the host's
variables and pc, the controller's predicates and queues, the bus log, the free values, the schedule. -/

namespace Sys2Proof.Machine

/-- What an operation answers: a value, or a fault or refusal with its information (R15). -/
inductive Access (α : Type) where
  | ok (a : α)
  | fault (code : FaultCode) (info : Info)
  | refuse (code : RefusalCode) (info : Info)
  deriving DecidableEq, Repr

/-- Sequencing: the first fault or refusal ends it (R301). -/
def Access.bind {α β : Type} (x : Access α) (f : α → Access β) : Access β :=
  match x with
  | .ok a => f a
  | .fault c i => .fault c i
  | .refuse c i => .refuse c i

/-- A value changed by a function. -/
def Access.map {α β : Type} (f : α → β) (x : Access α) : Access β := x.bind fun a => .ok (f a)

/-- A decoder's answer as an operation's: a rejection is a refusal (R130). -/
def Access.ofDecode {α : Type} (x : Except Rejection α) : Access α :=
  match x with
  | .ok a => .ok a
  | .error r => .refuse r.1 r.2

/-! ### Faults and refusals -/

/-- `raise Fault(code, info)`: recorded if none is yet, and nothing else (R284). -/
def State.raise (s : State) (code : FaultCode) (info : Info) : State :=
  { s with out := { s.out with fault := s.out.fault.or (some (code, info)) } }

/-- `refuse(code, info)`: recorded if none is yet, and nothing else (R285). -/
def State.refuse (s : State) (code : RefusalCode) (info : Info) : State :=
  { s with out := { s.out with refused := s.out.refused.or (some (code, info)) } }

/-- The state an operation started at `s` ends in: its own, or `s` with the fault or refusal recorded (R284, R285). -/
def State.settle (s : State) (x : Access State) : State :=
  match x with
  | .ok t => t
  | .fault c i => s.raise c i
  | .refuse c i => s.refuse c i

/-- The outcome of an instruction performed at `s`: always a next state (log 5). -/
def finish (s : State) (x : Access State) : Host.Outcome State Fault Refusal := .next (s.settle x)

/-! ### The host -/

/-- `pc <- pc + 1` (R242). -/
def State.advance (s : State) : State := { s with host := { s.host with pc := s.host.pc + 1 } }

/-- `x[i] <- v` (R13). -/
def State.setVar (s : State) (i : VarIx) (v : Word) : State :=
  { s with host := { s.host with vars := s.host.vars.set i (.written v) } }

/-- `pc <- L` of a taken branch or jump; F8 outside the program (R260). -/
def State.jumpTo (s : State) (target : Nat) : Access State :=
  if target < s.prog.length then .ok { s with host := { s.host with pc := target } }
  else .fault .hostBadTarget (.index target)

/-! ### The controller -/

/-- `cfgLocked` (R130): enabled, or an enable requested and not yet answered. -/
def State.cfgLocked (s : State) : Bool := s.ctl.enStatus || s.ctl.enReq

/-- The first register `cfgReady` needs and does not find, in the order R130 names them (R179; log 11). -/
def State.cfgMissing (s : State) : Option RegName :=
  if s.ctl.con ≠ .written s.cfg.conValue then some .con
  else if s.ctl.tar = .unwritten then some .tar
  else if s.ctl.hcnt = .unwritten then some .fsHcnt
  else if s.ctl.lcnt = .unwritten then some .fsLcnt
  else none

/-- `cfgReady` (R130). -/
def State.cfgReady (s : State) : Bool := s.cfgMissing == none

/-- `muxRouted` (R47). -/
def State.muxRouted (s : State) : Bool :=
  decide (s.sys.usefpga = .written 0#32 ∧ s.sys.gpioA = .written 1#32 ∧ s.sys.gpioB = .written 1#32)

/-- `gapHeld` (R188). -/
def State.gapHeld (s : State) : Bool :=
  match s.cfg.gapModel with
  | .free => false
  | .bracketed => s.host.inTxn

/-- Push a command entry: F4 when not enabled, then F2 when the FIFO is full (R137 to R139, R301). -/
def State.pushCmd (s : State) (e : CmdEntry) : Access State :=
  if s.ctl.enStatus = false then .fault .dataCmdWhileDisabled (.reg .dataCmd)
  else if s.ctl.cmdFifo.length = s.cfg.txDepth then .fault .cmdOverflow (.reg .dataCmd)
  else .ok { s with ctl := { s.ctl with cmdFifo := s.ctl.cmdFifo ++ [e] } }

/-- `Bus(e)` (R15, R45). -/
def State.logBus (s : State) (e : BusEvent) : State :=
  { s with ctl := { s.ctl with busLog := s.ctl.busLog ++ [e] } }

/-! ### Free values -/

/-- `draw(n)`: free bits, and the count of free values advanced (R108, R109; log 8). -/
def State.draw (s : State) (n : Nat) : BitVec n × State :=
  (Config.freeBits n s.env.draws, { s with env := { s.env with draws := s.env.draws + 1 } })

/-- Whether R184 fixes the acknowledgement: `ASSUME_ACK`, the pins routed, and the address `ACCEL_ADDR7`. -/
def State.ackAssured (s : State) (a : Addr7) : Bool := s.cfg.assumeAck && s.muxRouted && (a == s.cfg.accelAddr7)

/-- `Oracle.ack(busLog, phase)` in a transaction with address `a` (R183 to R185; log 7, log 14). -/
def State.askAck (s : State) (a : Addr7) (p : AckPhase) : Bool × State :=
  if s.ackAssured a then (true, s)
  else match s.env.acks with
    | k :: ks => (k, { s with env := { s.env with acks := ks } })
    | [] => (Config.freeAck s.ctl.busLog p, s)

/-- `Oracle.byte(busLog)` (R183; log 7). -/
def State.askByte (s : State) : Byte × State :=
  match s.env.rxBytes with
  | b :: bs => (b, { s with env := { s.env with rxBytes := bs } })
  | [] => (Config.freeByte s.ctl.busLog, s)

/-! ### The schedule -/

/-- Whose step is taken next (R9, R170): the head of the given schedule, else a free value (log 6). -/
def State.turn (s : State) : Turn :=
  match s.env.sched with
  | t :: _ => t
  | [] => Config.freeTurn s.env.draws

/-- The state with that choice consumed. -/
def State.takeTurn (s : State) : State :=
  match s.env.sched with
  | _ :: ts => { s with env := { s.env with sched := ts } }
  | [] => { s with env := { s.env with draws := s.env.draws + 1 } }

end Sys2Proof.Machine
end

