-- ==== Sys2Proof/Machine/Flags.lean ====
section
/-! DEFINITION. There are no condition codes (10_state.md R52). What a program can observe instead: the two status values of
R38 and R40, and the comparisons the branches make on variables (43_host_program.md R256 to R258). -/

namespace Sys2Proof.Machine

/-- The value of a read of `EN_STATUS`: `{draw(31), enStatus}` (R109). -/
def enStatusValue (upper : BitVec 31) (enStatus : Bool) : Word := upper ++ BitVec.ofBool enStatus

/-- The value of a read of `DATA_CMD`: `{draw(24), b}` (R108). -/
def dataCmdValue (upper : BitVec 24) (b : Byte) : Word := upper ++ b

/-- The value of a read of `RXFLR`: `zext_32(len(rxFifo))` (R109; log 15). -/
def State.rxLevel (s : State) : Word := BitVec.ofNat 32 s.ctl.rxFifo.length

/-- `BEQ`'s condition (R256). -/
def condEq (a b : Word) : Bool := a == b

/-- `BNE`'s condition (R257). -/
def condNe (a b : Word) : Bool := a != b

/-- `BLTU`'s condition, unsigned (R258). -/
def condLtu (a b : Word) : Bool := a.ult b

end Sys2Proof.Machine
end

