-- ==== Sys2Proof/Machine/Operands.lean ====
section
/-! DEFINITION. The operand forms of the host notation: a variable (43_host_program.md R244) and a register selector
(30_encoding.md R113, 43_host_program.md R243). Immediates are used as they stand (R114). -/

namespace Sys2Proof.Machine

/-- `x[i]` as a source operand: F7 if `Unwritten` (R244). -/
def State.readVar (s : State) (i : VarIx) : Access Word :=
  match s.host.vars[i] with
  | .written v => .ok v
  | .unwritten => .fault .hostUnwrittenVar (.var i)

/-- Two source operands, `vs` before `vt` (R301). -/
def State.readVars (s : State) (vs vt : VarIx) : Access (Word × Word) :=
  (s.readVar vs).bind fun a => (s.readVar vt).bind fun b => .ok (a, b)

/-- A register selector: X2 if it names no register (R243). -/
def readSelector (sel : Byte) : Access RegName :=
  match selectorRegister sel with
  | some r => .ok r
  | none => .refuse .unmappedRegister (.selector sel)

end Sys2Proof.Machine
end

