-- ==== Sys2Proof/Machine/RegisterAccess.lean ====
section
/-! DEFINITION. The register accesses of 40_register_access.md: one rule each, the access to a named register that decodes to
one of them (30_encoding.md R101), and the meanings of the fifteen bus operations. -/

namespace Sys2Proof.Machine

/-! ### The rules -/

/-- A configuration write: F3 while `cfgLocked` (R131 to R134). -/
def State.writeConfig (s : State) (r : RegName) (ctl : Controller) : Access State :=
  if s.cfgLocked then .fault .configWhileEnabled (.reg r) else .ok { s with ctl := ctl }

/-- R131. -/
def writeCon (s : State) : Access State := s.writeConfig .con { s.ctl with con := .written s.cfg.conValue }

/-- R132. -/
def writeTar (a : Addr7) (s : State) : Access State := s.writeConfig .tar { s.ctl with tar := .written a }

/-- R133. -/
def writeFsHcnt (c : Count) (s : State) : Access State := s.writeConfig .fsHcnt { s.ctl with hcnt := .written c }

/-- R134. -/
def writeFsLcnt (c : Count) (s : State) : Access State := s.writeConfig .fsLcnt { s.ctl with lcnt := .written c }

/-- R135: F10 while a disable is pending. -/
def writeEnableOn (s : State) : Access State :=
  if s.ctl.enReq = false ∧ s.ctl.enStatus = true then .fault .enableDuringDisable (.reg .enable)
  else .ok { s with ctl := { s.ctl with enReq := true } }

/-- R136. -/
def writeEnableOff (s : State) : Access State := .ok { s with ctl := { s.ctl with enReq := false } }

/-- R137. -/
def writeStart (a : Byte) (s : State) : Access State := s.pushCmd (.wr a true)

/-- R138. -/
def writeData (d : Byte) (s : State) : Access State := s.pushCmd (.wr d false)

/-- R139. -/
def writeReadToken (s : State) : Access State := s.pushCmd .rd

/-- R143. -/
def writeUsefpga (s : State) : Access State := .ok { s with sys := { s.sys with usefpga := .written 0#32 } }

/-- R144. -/
def writeGpioA (s : State) : Access State := .ok { s with sys := { s.sys with gpioA := .written 1#32 } }

/-- R145. -/
def writeGpioB (s : State) : Access State := .ok { s with sys := { s.sys with gpioB := .written 1#32 } }

/-- R140. -/
def readEnStatus (s : State) : Access (Word × State) :=
  let (u, t) := s.draw 31
  .ok (enStatusValue u s.ctl.enStatus, t)

/-- R141. -/
def readRxflr (s : State) : Access (Word × State) := .ok (s.rxLevel, s)

/-- R142: F1 when the RX FIFO is empty. -/
def readDataCmd (s : State) : Access (Word × State) :=
  match s.ctl.rxFifo with
  | [] => .fault .rxUnderflow (.reg .dataCmd)
  | b :: bs =>
    let (u, t) := s.draw 24
    .ok (dataCmdValue u b, { t with ctl := { t.ctl with rxFifo := bs } })

/-! ### Accesses to a named register -/

/-- An admitted write, performed. -/
def applyWrite (f : WriteForm) (s : State) : Access State :=
  match f with
  | .con => writeCon s
  | .tar a => writeTar a s
  | .fsHcnt c => writeFsHcnt c s
  | .fsLcnt c => writeFsLcnt c s
  | .enableOn => writeEnableOn s
  | .enableOff => writeEnableOff s
  | .start a => writeStart a s
  | .data d => writeData d s
  | .read => writeReadToken s
  | .usefpga => writeUsefpga s
  | .gpioA => writeGpioA s
  | .gpioB => writeGpioB s

/-- An admitted read, performed. -/
def applyRead (f : ReadForm) (s : State) : Access (Word × State) :=
  match f with
  | .enStatus => readEnStatus s
  | .rxflr => readRxflr s
  | .dataCmd => readDataCmd s

/-- `RegWrite`: a decoded write, then its rule (R130). -/
def regWrite (d : Except Rejection WriteForm) (s : State) : Access State :=
  (Access.ofDecode d).bind fun f => applyWrite f s

/-- `RegRead` of a named register: decoded by R101, then its rule (R130). -/
def regRead (r : RegName) (s : State) : Access (Word × State) :=
  (Access.ofDecode (decodeRead r)).bind fun f => applyRead f s

/-! ### The meanings -/

/-- A read performed without a host program: its value is the result of the access (log 9). -/
def keepResult (x : Word × State) : State := { x.2 with env := { x.2.env with result := x.1 } }

/-- `W_CON` (R131). -/
def execWCon (s : State) : Host.Outcome State Fault Refusal := finish s (writeCon s)

/-- `W_TAR` (R132). -/
def execWTar (a : Addr7) (s : State) : Host.Outcome State Fault Refusal := finish s (writeTar a s)

/-- `W_FS_HCNT` (R133). -/
def execWFsHcnt (c : Count) (s : State) : Host.Outcome State Fault Refusal := finish s (writeFsHcnt c s)

/-- `W_FS_LCNT` (R134). -/
def execWFsLcnt (c : Count) (s : State) : Host.Outcome State Fault Refusal := finish s (writeFsLcnt c s)

/-- `W_ENABLE_ON` (R135). -/
def execWEnableOn (s : State) : Host.Outcome State Fault Refusal := finish s (writeEnableOn s)

/-- `W_ENABLE_OFF` (R136). -/
def execWEnableOff (s : State) : Host.Outcome State Fault Refusal := finish s (writeEnableOff s)

/-- `W_DATA_CMD_START` (R137). -/
def execWDataCmdStart (a : Byte) (s : State) : Host.Outcome State Fault Refusal := finish s (writeStart a s)

/-- `W_DATA_CMD_DATA` (R138). -/
def execWDataCmdData (d : Byte) (s : State) : Host.Outcome State Fault Refusal := finish s (writeData d s)

/-- `W_DATA_CMD_READ` (R139). -/
def execWDataCmdRead (s : State) : Host.Outcome State Fault Refusal := finish s (writeReadToken s)

/-- `R_EN_STATUS` (R140). -/
def execREnStatus (s : State) : Host.Outcome State Fault Refusal := finish s ((readEnStatus s).map keepResult)

/-- `R_RXFLR` (R141). -/
def execRRxflr (s : State) : Host.Outcome State Fault Refusal := finish s ((readRxflr s).map keepResult)

/-- `R_DATA_CMD` (R142). -/
def execRDataCmd (s : State) : Host.Outcome State Fault Refusal := finish s ((readDataCmd s).map keepResult)

/-- `W_SYS_USEFPGA` (R143). -/
def execWSysUsefpga (s : State) : Host.Outcome State Fault Refusal := finish s (writeUsefpga s)

/-- `W_SYS_GPIO_A` (R144). -/
def execWSysGpioA (s : State) : Host.Outcome State Fault Refusal := finish s (writeGpioA s)

/-- `W_SYS_GPIO_B` (R145). -/
def execWSysGpioB (s : State) : Host.Outcome State Fault Refusal := finish s (writeGpioB s)

end Sys2Proof.Machine
end

