-- ==== Sys2Proof/Machine/HostNotation.lean ====
section
/-! DEFINITION. The host notation of 43_host_program.md: register access, arithmetic, control transfer and system statements.
Checks are made in the order of 60_exceptions.md R301: selector, variables, register decode, register rule, target. -/

namespace Sys2Proof.Machine

/-! ### Shared operations -/

/-- A write of `v`, decoded by `d`, to the register a selector names, then `pc + 1` (R245, R246). -/
def hostWrite (d : Params → RegName → Word → Except Rejection WriteForm) (sel : Byte) (v : State → Access Word)
    (s : State) : Access State :=
  (readSelector sel).bind fun r => (v s).bind fun w => (regWrite (d s.cfg r w) s).map State.advance

/-- A read of the register a selector names into `vd`, then `pc + 1` (R247). -/
def hostRead (vd : VarIx) (sel : Byte) (s : State) : Access State :=
  (readSelector sel).bind fun r => (regRead r s).map fun x => (x.2.setVar vd x.1).advance

/-- `x[d] <- f (x[s], imm); pc <- pc + 1` (R249, R251, R252, R254). -/
def aluImm (f : Word → Word → Word) (vd vs : VarIx) (imm : Word) (s : State) : Access State :=
  (s.readVar vs).map fun a => (s.setVar vd (f a imm)).advance

/-- `x[d] <- f (x[s], x[t]); pc <- pc + 1` (R253, R255). -/
def aluVar (f : Word → Word → Word) (vd vs vt : VarIx) (s : State) : Access State :=
  (s.readVars vs vt).map fun ab => (s.setVar vd (f ab.1 ab.2)).advance

/-- A conditional branch: to its target if the condition holds, else to the next statement (R256 to R258, R260). -/
def branch (cond : Word → Word → Bool) (vs vt : VarIx) (target : Word) (s : State) : Access State :=
  (s.readVars vs vt).bind fun ab => if cond ab.1 ab.2 then s.jumpTo target.toNat else .ok s.advance

/-! ### Register access -/

/-- `WRI sel, imm` (R245). -/
def execWri (sel : Byte) (imm : Word) (s : State) : Host.Outcome State Fault Refusal :=
  finish s (hostWrite decodeWrite sel (fun _ => .ok imm) s)

/-- `WRV sel, vs` (R246): the write of the variable's value. Whether a START form is admitted, as R246's pseudocode says,
or refused, as its corner case says, is the parameter `wrvStartForm` (DESIGN CHOICE, log 21). -/
def execWrv (sel : Byte) (vs : VarIx) (s : State) : Host.Outcome State Fault Refusal :=
  finish s (hostWrite decodeVarWrite sel (fun t => t.readVar vs) s)

/-- `RD vd, sel` (R247). -/
def execRd (vd : VarIx) (sel : Byte) (s : State) : Host.Outcome State Fault Refusal := finish s (hostRead vd sel s)

/-! ### Arithmetic -/

/-- `MOVI vd, imm` (R248). -/
def execMovi (vd : VarIx) (imm : Word) (s : State) : Host.Outcome State Fault Refusal :=
  finish s (.ok (s.setVar vd imm).advance)

/-- `ADDI vd, vs, imm` (R249): the sum modulo 2^32 (R250). -/
def execAddi (vd vs : VarIx) (imm : Word) (s : State) : Host.Outcome State Fault Refusal :=
  finish s (aluImm (fun a b => a + b) vd vs imm s)

/-- `ANDI vd, vs, imm` (R251). -/
def execAndi (vd vs : VarIx) (imm : Word) (s : State) : Host.Outcome State Fault Refusal :=
  finish s (aluImm (fun a b => a &&& b) vd vs imm s)

/-- `ORI vd, vs, imm` (R252). -/
def execOri (vd vs : VarIx) (imm : Word) (s : State) : Host.Outcome State Fault Refusal :=
  finish s (aluImm (fun a b => a ||| b) vd vs imm s)

/-- `OR vd, vs, vt` (R253). -/
def execOr (vd vs vt : VarIx) (s : State) : Host.Outcome State Fault Refusal :=
  finish s (aluVar (fun a b => a ||| b) vd vs vt s)

/-- `SHLI vd, vs, imm` (R254): an amount above 31 is illegal, X1 (R114, R115; log 17). -/
def execShli (vd vs : VarIx) (imm : Word) (s : State) : Host.Outcome State Fault Refusal :=
  finish s
    (if imm.toNat ≤ 31 then aluImm (fun a b => a <<< b.toNat) vd vs imm s
     else .refuse .undecodableHostWord (.hostWord (packHost 0x15#8 vd vs 0 0#8 imm)))

/-- `ADD vd, vs, vt` (R255): the sum modulo 2^32 (R250). -/
def execAdd (vd vs vt : VarIx) (s : State) : Host.Outcome State Fault Refusal :=
  finish s (aluVar (fun a b => a + b) vd vs vt s)

/-! ### Control transfer -/

/-- `BEQ vs, vt, L` (R256). -/
def execBeq (vs vt : VarIx) (target : Word) (s : State) : Host.Outcome State Fault Refusal :=
  finish s (branch condEq vs vt target s)

/-- `BNE vs, vt, L` (R257). -/
def execBne (vs vt : VarIx) (target : Word) (s : State) : Host.Outcome State Fault Refusal :=
  finish s (branch condNe vs vt target s)

/-- `BLTU vs, vt, L` (R258). -/
def execBltu (vs vt : VarIx) (target : Word) (s : State) : Host.Outcome State Fault Refusal :=
  finish s (branch condLtu vs vt target s)

/-- `JMP L` (R259). -/
def execJmp (target : Word) (s : State) : Host.Outcome State Fault Refusal := finish s (s.jumpTo target.toNat)

/-! ### System -/

/-- `SLEEP imm` (R262): a host step that changes only `pc`. -/
def execSleep (_ms : Word) (s : State) : Host.Outcome State Fault Refusal := finish s (.ok s.advance)

/-- `TXB` (R263). -/
def execTxb (s : State) : Host.Outcome State Fault Refusal :=
  finish s (.ok { s with host := { s.host with inTxn := true } }.advance)

/-- `TXE` (R263). -/
def execTxe (s : State) : Host.Outcome State Fault Refusal :=
  finish s (.ok { s with host := { s.host with inTxn := false } }.advance)

/-- `HALT` (R261): `pc` stays. -/
def execHalt (s : State) : Host.Outcome State Fault Refusal :=
  finish s (.ok { s with host := { s.host with halted := true } })

end Sys2Proof.Machine
end

