-- ==== Sys2Proof/Machine/Dispatch.lean ====
section
/-! DEFINITION. One arm per instruction: each calls its meaning. -/

namespace Sys2Proof.Machine

def exec (i : Instr) (s : State) : Host.Outcome State Fault Refusal :=
  match i with
  -- 40_register_access.md
  | .wCon => Sys2Proof.Machine.execWCon s
  | .wTar a => Sys2Proof.Machine.execWTar a s
  | .wFsHcnt c => Sys2Proof.Machine.execWFsHcnt c s
  | .wFsLcnt c => Sys2Proof.Machine.execWFsLcnt c s
  | .wEnableOn => Sys2Proof.Machine.execWEnableOn s
  | .wEnableOff => Sys2Proof.Machine.execWEnableOff s
  | .wDataCmdStart a => Sys2Proof.Machine.execWDataCmdStart a s
  | .wDataCmdData d => Sys2Proof.Machine.execWDataCmdData d s
  | .wDataCmdRead => Sys2Proof.Machine.execWDataCmdRead s
  | .rEnStatus => Sys2Proof.Machine.execREnStatus s
  | .rRxflr => Sys2Proof.Machine.execRRxflr s
  | .rDataCmd => Sys2Proof.Machine.execRDataCmd s
  | .wSysUsefpga => Sys2Proof.Machine.execWSysUsefpga s
  | .wSysGpioA => Sys2Proof.Machine.execWSysGpioA s
  | .wSysGpioB => Sys2Proof.Machine.execWSysGpioB s
  -- 43_host_program.md
  | .wri sel imm => Sys2Proof.Machine.execWri sel imm s
  | .wrv sel vs => Sys2Proof.Machine.execWrv sel vs s
  | .rd vd sel => Sys2Proof.Machine.execRd vd sel s
  | .movi vd imm => Sys2Proof.Machine.execMovi vd imm s
  | .addi vd vs imm => Sys2Proof.Machine.execAddi vd vs imm s
  | .andi vd vs imm => Sys2Proof.Machine.execAndi vd vs imm s
  | .ori vd vs imm => Sys2Proof.Machine.execOri vd vs imm s
  | .or vd vs vt => Sys2Proof.Machine.execOr vd vs vt s
  | .shli vd vs imm => Sys2Proof.Machine.execShli vd vs imm s
  | .add vd vs vt => Sys2Proof.Machine.execAdd vd vs vt s
  | .beq vs vt target => Sys2Proof.Machine.execBeq vs vt target s
  | .bne vs vt target => Sys2Proof.Machine.execBne vs vt target s
  | .bltu vs vt target => Sys2Proof.Machine.execBltu vs vt target s
  | .jmp target => Sys2Proof.Machine.execJmp target s
  | .sleep ms => Sys2Proof.Machine.execSleep ms s
  | .txb => Sys2Proof.Machine.execTxb s
  | .txe => Sys2Proof.Machine.execTxe s
  | .halt => Sys2Proof.Machine.execHalt s

end Sys2Proof.Machine
end

