-- ==== Sys2Proof/Machine/Engine.lean ====
section
/-! DEFINITION. The controller engine (41_bus_engine.md R170 to R182): the guard and the effect of each of its steps. -/

namespace Sys2Proof.Machine

/-- Whether the engine takes command entries: enabled, and no abort latched (R173 to R175). -/
def State.engineRuns (s : State) : Bool := s.ctl.enStatus && !s.ctl.abortLatch

/-- The guards of R170's table. -/
def State.engineEnabled (s : State) (e : EngineStep) : Bool :=
  match e with
  | .enableSync => s.ctl.enReq && !s.ctl.enStatus
  | .disableSync => !s.ctl.enReq && s.ctl.enStatus
  | .takeStart =>
    match s.ctl.cmdFifo with
    | .wr _ true :: _ => s.engineRuns
    | _ => false
  | .takeData =>
    match s.ctl.cmdFifo with
    | .wr _ false :: _ => s.engineRuns
    | _ => false
  | .takeRead =>
    match s.ctl.cmdFifo with
    | .rd :: _ => s.engineRuns
    | _ => false
  | .stop => s.ctl.enStatus && decide (s.ctl.cmdFifo = []) && decide (s.ctl.phase ≠ .idle) && !s.gapHeld
  | .discard => s.ctl.enStatus && s.ctl.abortLatch && decide (s.ctl.cmdFifo ≠ [])

/-- `nack()` (R177). -/
def State.nack (s : State) : State :=
  let t := s.logBus .stop
  { t with ctl := { t.ctl with phase := .idle, cmdFifo := [], abortLatch := true } }

/-- The address phase of an entry: START on an idle bus, repeated START otherwise, logged with the answer
(R173 to R175). -/
def State.addressPhase (s : State) (a : Addr7) (dir : BusDir) : Bool × State :=
  let (k, t) := s.askAck a (.addr a dir)
  (k, t.logBus (if s.ctl.phase = .idle then .start a dir k else .restart a dir k))

/-- A byte sent in the write direction, and what its acknowledgement leads to (R173, R174). -/
def State.sendByte (s : State) (a : Addr7) (d : Byte) : State :=
  let (k, t) := s.askAck a (.data d)
  let u := t.logBus (.tx d k)
  if k then { u with ctl := { u.ctl with phase := .write } } else u.nack

/-- A byte received into the RX FIFO (R175). -/
def State.receiveByte (s : State) : State :=
  let (b, t) := s.askByte
  let u := t.logBus (.rx b)
  { u with ctl := { u.ctl with rxFifo := u.ctl.rxFifo ++ [b], phase := .read } }

/-- `cmdFifo <- tail(cmdFifo)`. -/
def State.popCmd (s : State) : State := { s with ctl := { s.ctl with cmdFifo := s.ctl.cmdFifo.tail } }

/-- An address phase in direction `dir`, then `k` if it was acknowledged, else `nack()`. -/
def State.addressed (s : State) (a : Addr7) (dir : BusDir) (k : State → State) : State :=
  let (ack, t) := s.addressPhase a dir
  if ack then k t else t.nack

/-- The configuration test before an entry is taken: F5, else the entry with the address `tar` holds (R179). -/
def State.configured (s : State) (k : Addr7 → State) : State :=
  match s.cfgMissing, s.ctl.tar with
  | some r, _ => s.raise .engineUnconfigured (.reg r)
  | none, .written a => k a
  | none, .unwritten => s.raise .engineUnconfigured (.reg .tar)

/-- Take a START entry with byte `b` (R173). -/
def State.takeStart (s : State) (b : Byte) : State :=
  s.configured fun a => s.popCmd.addressed a .w fun t => t.sendByte a b

/-- Take a DATA entry with byte `d` (R174): an open write goes on, anything else is addressed first. -/
def State.takeData (s : State) (d : Byte) : State :=
  s.configured fun a =>
    if s.ctl.phase = .write then s.popCmd.sendByte a d
    else s.popCmd.addressed a .w fun t => t.sendByte a d

/-- Take a READ entry (R175), after the overflow test (R180): an open read goes on, anything else is addressed first. -/
def State.takeRead (s : State) : State :=
  s.configured fun a =>
    if s.ctl.rxFifo.length = s.cfg.rxDepth then s.raise .rxOverflow (.depth s.cfg.rxDepth)
    else if s.ctl.phase = .read then s.popCmd.receiveByte
    else s.popCmd.addressed a .r State.receiveByte

/-- Enable sync (R171). -/
def State.enableSync (s : State) : State := { s with ctl := { s.ctl with enStatus := true } }

/-- Disable sync, with abort (R172). -/
def State.disableSync (s : State) : State :=
  let t := if s.ctl.phase = .idle then s else s.logBus .stop
  { t with ctl := { t.ctl with phase := .idle, cmdFifo := [], rxFifo := [], abortLatch := false, enStatus := false } }

/-- Stop (R176). -/
def State.stopBus (s : State) : State :=
  let t := s.logBus .stop
  { t with ctl := { t.ctl with phase := .idle } }

/-- The effect of an engine step whose guard holds (R171 to R178). -/
def State.engineEffect (s : State) (e : EngineStep) : State :=
  match e with
  | .enableSync => s.enableSync
  | .disableSync => s.disableSync
  | .takeStart =>
    match s.ctl.cmdFifo with
    | .wr b _ :: _ => s.takeStart b
    | _ => s
  | .takeData =>
    match s.ctl.cmdFifo with
    | .wr d _ :: _ => s.takeData d
    | _ => s
  | .takeRead => s.takeRead
  | .stop => s.stopBus
  | .discard => s.popCmd

/-- The engine's turn: the step it was chosen to take if its guard holds, "or none" (R170). -/
def State.engineStep (s : State) (e : EngineStep) : State :=
  if s.engineEnabled e then s.engineEffect e else s

/-- Every engine step. -/
def engineSteps : List EngineStep :=
  [.enableSync, .disableSync, .takeStart, .takeData, .takeRead, .stop, .discard]

/-- Whether the engine has a step. -/
def State.engineHasStep (s : State) : Bool := engineSteps.any s.engineEnabled

end Sys2Proof.Machine
end

