-- ==== Sys2Proof/Machine/Fetch.lean ====
section
/-! DEFINITION. What the host performs next (43_host_program.md R242, R243; 30_encoding.md R117; 20_memory.md R71 to R74),
when no agent steps (60_exceptions.md R284, R285; 43_host_program.md R271), and how an instruction is placed there. -/

namespace Sys2Proof.Machine

/-- Whether the host has a step: it has not halted (R261). -/
def State.hostHasStep (s : State) : Bool := !s.host.halted

/-- Why no agent steps, if none does: a fault or a refusal is recorded, or neither agent has a step. -/
def State.stopped (s : State) : Option (Host.Outcome State Fault Refusal) :=
  match s.out.fault, s.out.refused with
  | some (c, i), _ => some (.fault (.faultRecorded c i))
  | none, some (c, i) => some (.refused (.refusalRecorded c i))
  | none, none => if s.hostHasStep || s.engineHasStep then none else some (.fault .noAgentHasStep)

/-- An access at a physical address: X5 unless it is 32 bits wide and at a mapped register (R71, R73, R74; log 10). -/
def decodePhys (P : Params) (a : PhysAccess) : Except Rejection Instr :=
  if a.width = 4 then
    match P.registerAtAddress a.addr with
    | some r => decodeAccess P r a.data
    | none => .error (.badWidthOrAddress, .access a.width a.addr)
  else .error (.badWidthOrAddress, .access a.width a.addr)

/-- An access the host performs without a program, decoded. -/
def decodeHostAccess (P : Params) (a : HostAccess) : Except Rejection Instr :=
  match a with
  | .bus op => decodeBus P op
  | .phys p => decodePhys P p

/-- Word `pc` of the program, fetched and decoded: F9 off the program, X1 if illegal (R242, R243). -/
def State.fetch (s : State) : Access Instr :=
  match s.prog[s.host.pc]? with
  | none => .fault .hostPcOut (.index s.host.pc)
  | some w => Access.ofDecode (decodeHost w)

/-- What the host performs next and the state it performs it in: the next access of its own, else a statement. -/
def State.nextInstr (s : State) : Access (Instr × State) :=
  match s.env.accesses with
  | a :: rest =>
    (Access.ofDecode (decodeHostAccess s.cfg a)).map fun i =>
      (i, { s with env := { s.env with accesses := rest } })
  | [] => s.fetch.map fun i => (i, s)

/-- A program with word `w` at index `pc`: there already a word, replaced; else padded with zero words. -/
def placeWord (prog : List HostWord) (pc : Nat) (w : HostWord) : List HostWord :=
  if pc < prog.length then prog.set pc w else prog ++ List.replicate (pc - prog.length) 0#64 ++ [w]

/-- The state with an encoded instruction where the host takes its next one, able to take it at once: the host's turn,
not halted, nothing recorded, no other access pending (log 4). -/
def State.placeCode (s : State) (c : Code) : State :=
  let t : State :=
    { s with
      host := { s.host with halted := false }
      out := { fault := none, refused := none }
      env := { s.env with sched := [.host], accesses := [] } }
  match c with
  | .host w => { t with prog := placeWord s.prog s.host.pc w }
  | .bus op => { t with env := { t.env with accesses := [.bus op] } }

end Sys2Proof.Machine
end

