-- ==== Sys2Proof/Machine/HostStep.lean ====
section
/-! DEFINITION. The host's step (43_host_program.md R242, R243): what it performs next, executed. -/

namespace Sys2Proof.Machine

/-- The host's step: a fault or refusal on the way to an instruction is recorded (R242, R243), an instruction is
executed. A host that has no step lets the turn pass (log 6). -/
def hostStep (s : State) : Host.Outcome State Fault Refusal :=
  if s.hostHasStep then
    match s.nextInstr with
    | .ok (i, t) => exec i t
    | .fault c info => .next (s.raise c info)
    | .refuse c info => .next (s.refuse c info)
  else .next s

end Sys2Proof.Machine
end

