-- ==== Sys2Proof/Machine/Step.lean ====
section
/-! DEFINITION. One step of the machine: one agent takes its step (00_scope.md R9, 41_bus_engine.md R170). -/

namespace Sys2Proof.Machine

/-- One step: nothing where the run has stopped, else the step of the agent whose turn it is. -/
def step (s : State) : Host.Outcome State Fault Refusal :=
  match s.stopped with
  | some o => o
  | none =>
    match s.turn with
    | .host => hostStep s.takeTurn
    | .engine e => .next (s.takeTurn.engineStep e)

/-- `s` with an instruction of the opcode table (`nbits` bits that are `w`) where the host takes its next one (log 4,
log 13). -/
def State.withFetchWord (s : State) (nbits w : Nat) : State := s.placeCode (tableCode s.cfg nbits w)

end Sys2Proof.Machine
end

