-- ==== Sys2Proof/Machine/Driver.lean ====
section
/-! DEFINITION. The driver primitives of 42_driver_primitives.md as the pseudo-instructions of 43_host_program.md R265 to R269:
each expands to a fixed sequence of host statements (30_encoding.md R118). -/

namespace Sys2Proof

/-- The pseudo-instructions (R118). -/
inductive Pseudo where
  /-- `POLLNZ vd, sel` (R265). -/
  | pollnz (vd : VarIx) (sel : Byte)
  /-- `MUXINIT`: `muxInitialize` (R207, R265). -/
  | muxinit
  /-- `SETEN code, vr`: `setEnable` (R200 to R203, R266). -/
  | seten (code : Word) (vr : VarIx)
  /-- `INIT vr`: the controller's bring-up (R205, R267). -/
  | init (vr : VarIx)
  /-- `READREG vd, a`: `readRegister` (R209, R268). -/
  | readreg (vd : VarIx) (a : Byte)
  /-- `WRITEREG a, b`: `writeRegister` (R211, R268). -/
  | writereg (a b : Byte)
  /-- `WRITEREGV a, vs` (R268). -/
  | writeregv (a : Byte) (vs : VarIx)
  /-- `READBURST a, n, vb`: `readBurst` (R212, R269). -/
  | readburst (a : Byte) (n : Nat) (vb : VarIx)
  deriving DecidableEq, Repr

/-- Not one of the scratch variables `v12` to `v15` (R240). -/
def VarIx.notScratch (v : VarIx) : Bool := decide (v.val < 12)

/-- The operands the expansions admit (R266, R268, R269). -/
def Pseudo.admitted : Pseudo → Bool
  | .pollnz _ _ => true
  | .muxinit => true
  | .seten code vr => (code == 1#32 || code == 2#32) && VarIx.notScratch vr
  | .init vr => VarIx.notScratch vr
  | .readreg vd _ => VarIx.notScratch vd
  | .writereg _ _ => true
  | .writeregv _ _ => true
  | .readburst _ n vb => decide (vb.val + n ≤ 12)

/-- A statement index as an immediate, modulo 2^32: an immediate has 32 bits, and of a target beyond them the spec says
nothing (DESIGN CHOICE, log 22). -/
def targetOf (n : Nat) : Word := BitVec.ofNat 32 n

/-- R265: three statements; `base` is the index of the first. -/
def expandPollnz (vd : VarIx) (sel : Byte) (base : Nat) : List Instr :=
  [.movi 13 0#32, .rd vd sel, .beq vd 13 (targetOf (base + 1))]

/-- R207, R265: `USEFPGA` gets 0, `GPIO_A` and `GPIO_B` get 1. -/
def expandMuxinit : List Instr := [.wri 0x10#8 0#32, .wri 0x11#8 1#32, .wri 0x12#8 1#32]

/-- R200, R266: sixteen statements; the expected bit is `code & 1` (R201). -/
def expandSeten (code : Word) (vr : VarIx) (base : Nat) : List Instr :=
  [ .wri 0x05#8 code, .movi 14 0#32, .movi 13 (code &&& 1#32), .movi 12 (BitVec.ofNat 32 pollCeiling),
    .rd 15 0x07#8, .andi 15 15 1#32, .beq 15 13 (targetOf (base + 12)), .beq 14 12 (targetOf (base + 12)),
    .wri 0x05#8 code, .sleep (BitVec.ofNat 32 pollSleepMs), .addi 14 14 1#32, .jmp (targetOf (base + 4)),
    .movi 12 (BitVec.ofNat 32 pollOkLimit), .movi vr 1#32, .bltu 14 12 (targetOf (base + 16)), .movi vr 0#32 ]

/-- R205, R267: disable, and only if that succeeded configure and enable. -/
def expandInit (P : Params) (vr : VarIx) (base : Nat) : List Instr :=
  expandSeten 2#32 vr base
    ++ [ .movi 13 0#32, .beq vr 13 (targetOf (base + 38)), .wri 0x00#8 P.conValue,
         .wri 0x01#8 (P.accelAddr7.setWidth 32), .wri 0x03#8 fsHcntValue, .wri 0x04#8 fsLcntValue ]
    ++ expandSeten 1#32 vr (base + 22)

/-- The wait for one byte and its read (R209, R212, R268, R269): five statements. -/
def expandDrain (vd : VarIx) (base : Nat) : List Instr :=
  expandPollnz 15 0x06#8 base ++ [.rd vd 0x02#8, .andi vd vd 0xFF#32]

/-- R209, R268. -/
def expandReadreg (P : Params) (vd : VarIx) (a : Byte) (base : Nat) : List Instr :=
  [.txb, .wri 0x02#8 (P.startValue a), .wri 0x02#8 readToken, .txe] ++ expandDrain vd (base + 4)

/-- R211, R268. -/
def expandWritereg (P : Params) (a b : Byte) : List Instr :=
  [.txb, .wri 0x02#8 (P.startValue a), .wri 0x02#8 (b.setWidth 32), .txe]

/-- R268: the value from a variable. -/
def expandWriteregv (P : Params) (a : Byte) (vs : VarIx) : List Instr :=
  [.txb, .wri 0x02#8 (P.startValue a), .wrv 0x02#8 vs, .txe]

/-- The drains of a burst: `n` of them from variable `b` on (R269). -/
def expandDrains (b base : Nat) : Nat → List Instr
  | 0 => []
  | n + 1 => expandDrain (Fin.ofNat 16 b) base ++ expandDrains (b + 1) (base + 5) n

/-- R212, R269: all `n` requests are written before the first byte is drained. -/
def expandReadburst (P : Params) (a : Byte) (n : Nat) (vb : VarIx) (base : Nat) : List Instr :=
  [.txb, .wri 0x02#8 (P.startValue a)] ++ List.replicate n (.wri 0x02#8 readToken) ++ [.txe]
    ++ expandDrains vb.val (base + n + 3) n

/-- The expansion of a pseudo-instruction whose first statement has index `base` (R265 to R269). -/
def Pseudo.expand (P : Params) (base : Nat) : Pseudo → List Instr
  | .pollnz vd sel => expandPollnz vd sel base
  | .muxinit => expandMuxinit
  | .seten code vr => expandSeten code vr base
  | .init vr => expandInit P vr base
  | .readreg vd a => expandReadreg P vd a base
  | .writereg a b => expandWritereg P a b
  | .writeregv a vs => expandWriteregv P a vs
  | .readburst a n vb => expandReadburst P a n vb base

/-- The words of host statements (R112); a bus operation is no host statement and has none. -/
def hostWords (P : Params) (is : List Instr) : List HostWord :=
  is.filterMap fun i =>
    match encode P i with
    | .host w => some w
    | .bus _ => none

end Sys2Proof
end

