-- ==== Sys2Proof/Safety.lean ====
section
/-! DEFINITION. The notions claims are stated in: the launch predicates and the invariant of 70_reset_and_hazards.md, idle, the
framing of the bus log, the observation, the end of a run, the steps a run admits and their fairness. -/

namespace Sys2Proof.Machine

/-! ### Launch -/

/-- The invariant of R314. -/
abbrev State.Inv (s : State) : Prop :=
  (s.ctl.enStatus = false →
    s.ctl.cmdFifo = [] ∧ s.ctl.rxFifo = [] ∧ s.ctl.phase = .idle ∧ s.ctl.abortLatch = false)
  ∧ s.ctl.cmdFifo.length ≤ s.cfg.txDepth ∧ s.ctl.rxFifo.length ≤ s.cfg.rxDepth

/-- Each configuration and routing register is `Unwritten` or holds a value its write rule admits (R312). The fields'
widths already say so of `tar`, `hcnt` and `lcnt`. -/
abbrev State.RegsAdmitted (s : State) : Prop :=
  (s.ctl.con = .unwritten ∨ s.ctl.con = .written s.cfg.conValue)
  ∧ (s.sys.usefpga = .unwritten ∨ s.sys.usefpga = .written 0#32)
  ∧ (s.sys.gpioA = .unwritten ∨ s.sys.gpioA = .written 1#32)
  ∧ (s.sys.gpioB = .unwritten ∨ s.sys.gpioB = .written 1#32)

/-- `ResetLaunch` (R311, R313), at any parameters, program and inputs. -/
abbrev State.ResetLaunch (s : State) : Prop :=
  s.ctl = Controller.reset ∧ s.sys = { usefpga := .unwritten, gpioA := .unwritten, gpioB := .unwritten }
  ∧ s.host = HostState.reset ∧ s.out = { fault := none, refused := none }

/-- `AnyLaunch` (R312): any state a previous program could have left. -/
abbrev State.AnyLaunch (s : State) : Prop :=
  s.host = HostState.reset ∧ s.ctl.busLog = [] ∧ s.out = { fault := none, refused := none }
  ∧ s.RegsAdmitted ∧ s.Inv

/-- Idle (R208). -/
abbrev State.Idle (s : State) : Prop :=
  s.ctl.enReq = true ∧ s.ctl.enStatus = true ∧ s.ctl.cmdFifo = [] ∧ s.ctl.rxFifo = [] ∧ s.ctl.phase = .idle
  ∧ s.ctl.abortLatch = false ∧ s.cfgReady = true

/-! ### The bus log -/

/-- Where the bus stands after a log: no transaction open, one open in a direction, or one that was not acknowledged
and must be stopped. -/
inductive BusFrame where
  | idle
  | opened (dir : BusDir)
  | nacked
  deriving DecidableEq, Repr

/-- How one event moves the bus, `none` where the event may not stand: a START only on an idle bus, a repeated START
only in an open transaction, a byte only in the direction it goes, a STOP only in a transaction. -/
def BusFrame.after (f : BusFrame) (e : BusEvent) : Option BusFrame :=
  match f, e with
  | .idle, .start _ d k => some (if k then .opened d else .nacked)
  | .opened _, .restart _ d k => some (if k then .opened d else .nacked)
  | .opened .w, .tx _ k => some (if k then .opened .w else .nacked)
  | .opened .r, .rx _ => some (.opened .r)
  | .opened _, .stop => some .idle
  | .nacked, .stop => some .idle
  | _, _ => none

/-- Where the bus stands after a log that started on an idle bus, if the log is framed. -/
def busFrame (log : List BusEvent) : Option BusFrame := log.foldl (fun f e => f.bind fun g => g.after e) (some .idle)

/-- Where the engine's phase says the bus stands (R43). -/
def Phase.frame : Phase → BusFrame
  | .idle => .idle
  | .write => .opened .w
  | .read => .opened .r

/-- The bus log is a sequence of transactions and the phase says where the last one stands. -/
abbrev State.Framed (s : State) : Prop := busFrame s.ctl.busLog = some s.ctl.phase.frame

/-! ### Runs -/

/-- The observation of a run at a state (R270). -/
structure Observation where
  host : HostState
  ctl : Controller
  sys : SysManager
  out : OutcomeRecord
  deriving DecidableEq, Repr

/-- The observation of a state: everything but the parameters, the program and the model's own inputs. -/
def State.observe (s : State) : Observation := { host := s.host, ctl := s.ctl, sys := s.sys, out := s.out }

/-- The engine is quiescent: `cmdFifo = []` and `phase = Idle`, or `enStatus = 0` (R271). -/
abbrev State.Quiescent (s : State) : Prop :=
  (s.ctl.cmdFifo = [] ∧ s.ctl.phase = .idle) ∨ s.ctl.enStatus = false

/-- The end of a run (R271). -/
abbrev State.RunEnded (s : State) : Prop :=
  s.host.halted = true ∧ s.out.fault = none ∧ s.out.refused = none ∧ s.Quiescent

/-- A step the machine admits from `s`: some agent's turn, some answers of the remote device (R9, R170, R183). -/
def Admits (s t : State) : Prop :=
  ∃ (turn : Turn) (acks : List Bool) (bytes : List Byte),
    step { s with env := { s.env with sched := [turn], acks := acks, rxBytes := bytes } } = .next t

/-- A state some run reaches from one that meets `launch` (R270, R312). -/
inductive Reaches (launch : State → Prop) : State → Prop where
  | start (s : State) (h : launch s) : Reaches launch s
  | next (s t : State) (hs : Reaches launch s) (h : Admits s t) : Reaches launch t

/-- The engine steps that are weakly fair (R187): all but the two syncs. -/
def fairStep : EngineStep → Bool
  | .enableSync => false
  | .disableSync => false
  | .takeStart => true
  | .takeData => true
  | .takeRead => true
  | .stop => true
  | .discard => true

/-- An infinite run is weakly fair (R187, R271): a fair engine step, and the host's, is not enabled for ever without
being taken. -/
def WeaklyFair (run : Nat → State) : Prop :=
  (∀ e : EngineStep, fairStep e = true → ∀ n, (∀ m, n ≤ m → (run m).engineEnabled e = true) →
    ∃ m, n ≤ m ∧ (run m).turn = .engine e)
  ∧ ∀ n, (∀ m, n ≤ m → (run m).hostHasStep = true) → ∃ m, n ≤ m ∧ (run m).turn = .host

/-- A run of the machine: each state the next of the one before. -/
def IsRun (run : Nat → State) : Prop := ∀ n, step (run n) = .next (run (n + 1))

/-! ### What an instruction may touch -/

/-- The variable an instruction writes, if any (R247 to R255). -/
def destVar : Instr → Option VarIx
  | .rd vd _ => some vd
  | .movi vd _ => some vd
  | .addi vd _ _ => some vd
  | .andi vd _ _ => some vd
  | .ori vd _ _ => some vd
  | .or vd _ _ => some vd
  | .shli vd _ _ => some vd
  | .add vd _ _ => some vd
  | .wCon => none | .wTar _ => none | .wFsHcnt _ => none | .wFsLcnt _ => none
  | .wEnableOn => none | .wEnableOff => none
  | .wDataCmdStart _ => none | .wDataCmdData _ => none | .wDataCmdRead => none
  | .rEnStatus => none | .rRxflr => none | .rDataCmd => none
  | .wSysUsefpga => none | .wSysGpioA => none | .wSysGpioB => none
  | .wri _ _ => none | .wrv _ _ => none
  | .beq _ _ _ => none | .bne _ _ _ => none | .bltu _ _ _ => none | .jmp _ => none
  | .sleep _ => none | .txb => none | .txe => none | .halt => none

/-- The variables an instruction reads, in the order it checks them (R244, R301). -/
def sourceVars : Instr → List VarIx
  | .wrv _ vs => [vs]
  | .addi _ vs _ => [vs]
  | .andi _ vs _ => [vs]
  | .ori _ vs _ => [vs]
  | .shli _ vs _ => [vs]
  | .or _ vs vt => [vs, vt]
  | .add _ vs vt => [vs, vt]
  | .beq vs vt _ => [vs, vt]
  | .bne vs vt _ => [vs, vt]
  | .bltu vs vt _ => [vs, vt]
  | .wCon => [] | .wTar _ => [] | .wFsHcnt _ => [] | .wFsLcnt _ => []
  | .wEnableOn => [] | .wEnableOff => []
  | .wDataCmdStart _ => [] | .wDataCmdData _ => [] | .wDataCmdRead => []
  | .rEnStatus => [] | .rRxflr => [] | .rDataCmd => []
  | .wSysUsefpga => [] | .wSysGpioA => [] | .wSysGpioB => []
  | .wri _ _ => [] | .rd _ _ => [] | .movi _ _ => []
  | .jmp _ => [] | .sleep _ => [] | .txb => [] | .txe => [] | .halt => []

/-- Whether an instruction can reach a register window: a register access, `WRI`, `WRV` or `RD` (R264). -/
def reachesWindow : Instr → Bool
  | .wri _ _ => true
  | .wrv _ _ => true
  | .rd _ _ => true
  | .wCon => true | .wTar _ => true | .wFsHcnt _ => true | .wFsLcnt _ => true
  | .wEnableOn => true | .wEnableOff => true
  | .wDataCmdStart _ => true | .wDataCmdData _ => true | .wDataCmdRead => true
  | .rEnStatus => true | .rRxflr => true | .rDataCmd => true
  | .wSysUsefpga => true | .wSysGpioA => true | .wSysGpioB => true
  | .movi _ _ => false | .addi _ _ _ => false | .andi _ _ _ => false | .ori _ _ _ => false
  | .or _ _ _ => false | .shli _ _ _ => false | .add _ _ _ => false
  | .beq _ _ _ => false | .bne _ _ _ => false | .bltu _ _ _ => false | .jmp _ => false
  | .sleep _ => false | .txb => false | .txe => false | .halt => false

/-- The operand columns of R112: the fields an opcode uses, `none` for a byte that is no opcode. -/
def opcodeUses (op : Byte) : Option Uses :=
  if op = 0x01#8 then some { sel := true, imm := true }
  else if op = 0x02#8 then some { sel := true, s := true }
  else if op = 0x03#8 then some { d := true, sel := true }
  else if op = 0x10#8 then some { d := true, imm := true }
  else if op = 0x11#8 ∨ op = 0x12#8 ∨ op = 0x13#8 ∨ op = 0x15#8 then some { d := true, s := true, imm := true }
  else if op = 0x14#8 ∨ op = 0x16#8 then some { d := true, s := true, t := true }
  else if op = 0x20#8 ∨ op = 0x21#8 ∨ op = 0x22#8 then some { s := true, t := true, imm := true }
  else if op = 0x23#8 ∨ op = 0x30#8 then some { imm := true }
  else if op = 0x31#8 ∨ op = 0x32#8 ∨ op = 0x3F#8 then some {}
  else none

/-- The words R115 calls illegal: no opcode, an unused field or `z` not 0, or a `SHLI` by more than 31. -/
abbrev IllegalWord (w : HostWord) : Prop :=
  opcodeUses (fieldOp w) = none
  ∨ (∃ u, opcodeUses (fieldOp w) = some u ∧
      ((u.d = false ∧ fieldD w ≠ 0) ∨ (u.s = false ∧ fieldS w ≠ 0) ∨ (u.t = false ∧ fieldT w ≠ 0)
        ∨ (u.sel = false ∧ fieldSel w ≠ 0#8) ∨ (u.imm = false ∧ fieldImm w ≠ 0#32)))
  ∨ fieldZ w ≠ 0#4
  ∨ (fieldOp w = 0x15#8 ∧ 31 < (fieldImm w).toNat)

/-- The host is about to take its next statement: nothing recorded, its turn, no access of its own pending, not
halted. -/
abbrev State.HostTakesStatement (s : State) : Prop :=
  s.out.fault = none ∧ s.out.refused = none ∧ s.turn = .host ∧ s.env.accesses = [] ∧ s.host.halted = false

/-- When an admitted write executes normally (the conditions of R131 to R139 and R143 to R145). -/
abbrev writeRuns (f : WriteForm) (s : State) : Prop :=
  match f with
  | .con => s.ctl.enStatus = false ∧ s.ctl.enReq = false
  | .tar _ => s.ctl.enStatus = false ∧ s.ctl.enReq = false
  | .fsHcnt _ => s.ctl.enStatus = false ∧ s.ctl.enReq = false
  | .fsLcnt _ => s.ctl.enStatus = false ∧ s.ctl.enReq = false
  | .enableOn => s.ctl.enReq = true ∨ s.ctl.enStatus = false
  | .enableOff => True
  | .start _ => s.ctl.enStatus = true ∧ s.ctl.cmdFifo.length ≠ s.cfg.txDepth
  | .data _ => s.ctl.enStatus = true ∧ s.ctl.cmdFifo.length ≠ s.cfg.txDepth
  | .read => s.ctl.enStatus = true ∧ s.ctl.cmdFifo.length ≠ s.cfg.txDepth
  | .usefpga => True
  | .gpioA => True
  | .gpioB => True

end Sys2Proof.Machine
end

