-- ==== Sys2Proof/Certificates/Slice0/Obligations.lean ====
section
/-! DEFINITION. The statements for the provers, in the order of OBLIGATIONS.json. -/

open Sys2Proof Sys2Proof.Machine

/-! ### Encoding -/

/-- R101, R102, R104, R111, R112: decoding what the encoder writes gives the instruction back, every operand at every
value the encoding admits, at every instance of the parameters (R11). -/
def Obligations.EncodingDecodesToItsInstruction : Prop :=
  ∀ (P : Params) (i : Instr), P.wf = true → i.wellFormed = true → decode P (encode P i) = .ok i

/-- R101 ("A tuple that passes all three steps is exactly one row"), R115: only its own encoding decodes to an
instruction, and what decodes is well formed. -/
def Obligations.DecodedCodeIsItsEncoding : Prop :=
  ∀ (P : Params) (c : Code) (i : Instr), P.wf = true → decode P c = .ok i → i.wellFormed = true ∧ encode P i = c

/-- R115: an illegal word is refused with X1 when fetched: nothing decodes it, and a step that fetches it records the
refusal and does nothing else but take the turn. -/
def Obligations.IllegalHostWordsAreRefusedWhenFetched : Prop :=
  ∀ w : HostWord, IllegalWord w →
    ∃ info : Info, decodeHost w = .error (.undecodableHostWord, info)
      ∧ ∀ s : State, s.HostTakesStatement → s.prog[s.host.pc]? = some w →
          step s = .next (s.takeTurn.refuse .undecodableHostWord info)

/-- Words of 95_test_vectors.md section 3, a value of section 2.1 and two accesses of section 2.2 decode to what is listed
there. The last three decode at the default parameters, whose offsets, START bit and control value are general knowledge
(00_scope.md R10; PRESUMED, log 2). -/
def Obligations.ListedWordsDecodeAsListed : Prop :=
  decodeHost 0x0100001000000000#64 = .ok (.wri 0x10#8 0#32)
  ∧ decodeHost 0x0201000200000000#64 = .ok (.wrv 0x02#8 1)
  ∧ decodeHost 0x03F0000700000000#64 = .ok (.rd 15 0x07#8)
  ∧ decodeHost 0x1511000000000003#64 = .ok (.shli 1 1 3#32)
  ∧ decodeHost 0x1488400000000000#64 = .ok (.or 8 8 4)
  ∧ decodeHost 0x200FD0000000000F#64 = .ok (.beq 15 13 15#32)
  ∧ decodeHost 0x3F00000000000000#64 = .ok .halt
  ∧ decodeBus Params.default (.write .i2c 4 0x432#32) = .ok (.wDataCmdStart 0x32#8)
  ∧ decodeBus Params.default (.write .i2c 0 0x65#32) = .ok .wCon
  ∧ decodeBus Params.default (.read .i2c 39) = .ok .rEnStatus

/-- R104 to R107: the three forms of a command/data value, and X3 for every other value. -/
def Obligations.CommandDataValueHasThreeForms : Prop :=
  ∀ (P : Params) (v : Word), P.wf = true →
    (∀ a : Byte, decodeCmd P v = .ok (.start a) ↔ v = a.setWidth 32 ||| P.startFlag)
    ∧ (∀ d : Byte, decodeCmd P v = .ok (.data d) ↔ v = d.setWidth 32)
    ∧ (decodeCmd P v = .ok .read ↔ v = 0x100#32)
    ∧ ((∀ a : Byte, v ≠ a.setWidth 32 ||| P.startFlag) → (∀ d : Byte, v ≠ d.setWidth 32) → v ≠ 0x100#32 →
        decodeCmd P v = .error (.unadmittedWriteValue, .value v))

/-- R148: an access at an offset no register has is refused with X2; one at a register's offset is decoded as an access
to that register. -/
def Obligations.AccessIsDecodedByItsOffset : Prop :=
  (∀ (P : Params) (w : Window) (off : Nat), (∀ r : RegName, r.window = w → P.offset r ≠ off) →
    ∃ info : Info, decodeBus P (.read w off) = .error (.unmappedRegister, info)
      ∧ ∀ v, decodeBus P (.write w off v) = .error (.unmappedRegister, info))
  ∧ ∀ (P : Params) (r : RegName), P.wf = true →
    decodeBus P (.read r.window (P.offset r)) = decodeAccess P r none
    ∧ ∀ v, decodeBus P (.write r.window (P.offset r) v) = decodeAccess P r (some v)

/-- R147, R103: the eight write-only registers refuse a read with X4, the other three admit it. -/
def Obligations.OnlyThreeRegistersAreRead : Prop :=
  ∀ (P : Params) (r : RegName),
    ∃ info : Info, decodeAccess P r none =
      if r = .enStatus then .ok .rEnStatus
      else if r = .rxflr then .ok .rRxflr
      else if r = .dataCmd then .ok .rDataCmd
      else .error (.unadmittedRead, info)

/-- R146: the write values refused with X3; where a rule gives the info it is the register and the value (R131 to
R134), or the value alone for `DATA_CMD` (R104). -/
def Obligations.UnadmittedWritesAreRefused : Prop :=
  ∀ (P : Params) (r : RegName) (v : Word), P.wf = true →
    (r = .con ∧ v ≠ P.conValue) ∨ (r = .tar ∧ 0x80 ≤ v.toNat) ∨ (r = .fsHcnt ∧ 0x10000 ≤ v.toNat)
      ∨ (r = .fsLcnt ∧ 0x10000 ≤ v.toNat) ∨ (r = .enable ∧ v ≠ 1#32 ∧ v ≠ 2#32)
      ∨ (r = .usefpga ∧ v ≠ 0#32) ∨ (r = .gpioA ∧ v ≠ 1#32) ∨ (r = .gpioB ∧ v ≠ 1#32)
      ∨ r = .rxflr ∨ r = .enStatus
      ∨ (r = .dataCmd ∧ (∀ a : Byte, v ≠ a.setWidth 32 ||| P.startFlag) ∧ (∀ d : Byte, v ≠ d.setWidth 32)
          ∧ v ≠ 0x100#32) →
    ∃ info : Info, decodeAccess P r (some v) = .error (.unadmittedWriteValue, info)
      ∧ (r = .con ∨ r = .tar ∨ r = .fsHcnt ∨ r = .fsLcnt → info = .regValue r v)
      ∧ (r = .dataCmd → info = .value v)

/-- R71, R73, R74, R294: an access at a physical address is X5 unless it is 32 bits wide at `BASE_w + 4*off` of a mapped
register, and is then the access to that register. That an unmapped word-aligned address is X5 and not X2 is the
model's reading of R74 (log 10); the information X5 records is the model's own (DESIGN CHOICE, log 12). -/
def Obligations.PhysicalAccessIsX5OrItsRegister : Prop :=
  ∀ (P : Params) (a : PhysAccess),
    (a.width ≠ 4 → decodePhys P a = .error (.badWidthOrAddress, .access a.width a.addr))
    ∧ ((∀ r : RegName, P.address r ≠ a.addr) → decodePhys P a = .error (.badWidthOrAddress, .access a.width a.addr))
    ∧ ∀ r : RegName, a.width = 4 → a.addr = P.base r.window + 4 * P.offset r →
        (∀ r' : RegName, P.address r' = P.address r → r' = r) → decodePhys P a = decodeAccess P r a.data

/-- R113: the selectors with the window and the offset each maps to, and X2 when a statement with any other selector
executes. -/
def Obligations.SelectorsNameTheirRegisters : Prop :=
  (∀ P : Params, ∀ x ∈ ([
      (0x00#8, .con, .i2c, P.offCon), (0x01#8, .tar, .i2c, P.offTar), (0x02#8, .dataCmd, .i2c, P.offDataCmd),
      (0x03#8, .fsHcnt, .i2c, P.offFsHcnt), (0x04#8, .fsLcnt, .i2c, P.offFsLcnt), (0x05#8, .enable, .i2c, P.offEnable),
      (0x06#8, .rxflr, .i2c, P.offRxflr), (0x07#8, .enStatus, .i2c, P.offEnStatus),
      (0x10#8, .usefpga, .sys, P.offUsefpga), (0x11#8, .gpioA, .sys, P.offGpioA),
      (0x12#8, .gpioB, .sys, P.offGpioB)] : List (Byte × RegName × Window × Nat)),
    selectorRegister x.1 = some x.2.1 ∧ x.2.1.window = x.2.2.1 ∧ P.offset x.2.1 = x.2.2.2)
  ∧ ∀ sel : Byte, 0x08#8 ≤ sel ∧ sel ≤ 0x0F#8 ∨ 0x13#8 ≤ sel →
      ∀ (s : State) (imm : Word) (v : VarIx),
        ∃ info : Info, exec (.wri sel imm) s = .next (s.refuse .unmappedRegister info)
          ∧ exec (.wrv sel v) s = .next (s.refuse .unmappedRegister info)
          ∧ exec (.rd v sel) s = .next (s.refuse .unmappedRegister info)

/-! ### Register accesses -/

/-- R131 to R134, R288: the configuration writes store their value while the controller is disabled and no enable is
requested; otherwise F3. -/
def Obligations.ConfigurationWritesNeedDisabled : Prop :=
  ∀ (s : State) (a : Addr7) (c : Count),
    (s.ctl.enStatus = false → s.ctl.enReq = false →
      exec .wCon s = .next { s with ctl := { s.ctl with con := .written s.cfg.conValue } }
      ∧ exec (.wTar a) s = .next { s with ctl := { s.ctl with tar := .written a } }
      ∧ exec (.wFsHcnt c) s = .next { s with ctl := { s.ctl with hcnt := .written c } }
      ∧ exec (.wFsLcnt c) s = .next { s with ctl := { s.ctl with lcnt := .written c } })
    ∧ (s.ctl.enStatus = true ∨ s.ctl.enReq = true →
      exec .wCon s = .next (s.raise .configWhileEnabled (.reg .con))
      ∧ exec (.wTar a) s = .next (s.raise .configWhileEnabled (.reg .tar))
      ∧ exec (.wFsHcnt c) s = .next (s.raise .configWhileEnabled (.reg .fsHcnt))
      ∧ exec (.wFsLcnt c) s = .next (s.raise .configWhileEnabled (.reg .fsLcnt)))

/-- R135, R136, R300: the enable writes set the request alone; an enable during a pending disable is F10. -/
def Obligations.EnableWritesSetTheRequest : Prop :=
  ∀ s : State,
    (s.ctl.enReq = true ∨ s.ctl.enStatus = false →
      exec .wEnableOn s = .next { s with ctl := { s.ctl with enReq := true } })
    ∧ (s.ctl.enReq = false → s.ctl.enStatus = true →
      exec .wEnableOn s = .next (s.raise .enableDuringDisable (.reg .enable)))
    ∧ exec .wEnableOff s = .next { s with ctl := { s.ctl with enReq := false } }

/-- R137, R138, R139, R287, R289: a command write appends its entry; F4 while not enabled, else F2 with the FIFO
full. -/
def Obligations.CommandWritesPushOneEntry : Prop :=
  ∀ (s : State) (b : Byte),
    (s.ctl.enStatus = true → s.ctl.cmdFifo.length ≠ s.cfg.txDepth →
      exec (.wDataCmdStart b) s = .next { s with ctl := { s.ctl with cmdFifo := s.ctl.cmdFifo ++ [.wr b true] } }
      ∧ exec (.wDataCmdData b) s = .next { s with ctl := { s.ctl with cmdFifo := s.ctl.cmdFifo ++ [.wr b false] } }
      ∧ exec .wDataCmdRead s = .next { s with ctl := { s.ctl with cmdFifo := s.ctl.cmdFifo ++ [.rd] } })
    ∧ (s.ctl.enStatus = false → ∀ i : Instr, i = .wDataCmdStart b ∨ i = .wDataCmdData b ∨ i = .wDataCmdRead →
      exec i s = .next (s.raise .dataCmdWhileDisabled (.reg .dataCmd)))
    ∧ (s.ctl.enStatus = true → s.ctl.cmdFifo.length = s.cfg.txDepth →
      ∀ i : Instr, i = .wDataCmdStart b ∨ i = .wDataCmdData b ∨ i = .wDataCmdRead →
      exec i s = .next (s.raise .cmdOverflow (.reg .dataCmd)))

/-- R109, R140, R141: what the two status reads return, `EN_STATUS`'s upper bits being free, and that they change
nothing else (the result kept and the count of free values are the model's own, log 8, log 9; that a level of 2^32 or
more is read modulo 2^32 is the model's reading, log 15). -/
def Obligations.StatusReadsReturnStatus : Prop :=
  ∀ s : State,
    (∃ u : BitVec 31,
      exec .rEnStatus s =
        .next { s with env := { s.env with result := u ++ BitVec.ofBool s.ctl.enStatus, draws := s.env.draws + 1 } })
    ∧ exec .rRxflr s = .next { s with env := { s.env with result := BitVec.ofNat 32 s.ctl.rxFifo.length } }

/-- R108, R142, R286: a read of `DATA_CMD` pops the oldest byte into bits 7 to 0, the others being free; F1 when there
is none. That the value is kept as a result and the free values are counted is the model's own (log 8, log 9). -/
def Obligations.DataReadPopsTheOldestByte : Prop :=
  ∀ s : State,
    (∀ (b : Byte) (bs : List Byte), s.ctl.rxFifo = b :: bs →
      ∃ u : BitVec 24,
        exec .rDataCmd s =
          .next { s with ctl := { s.ctl with rxFifo := bs }, env := { s.env with result := u ++ b, draws := s.env.draws + 1 } })
    ∧ (s.ctl.rxFifo = [] → exec .rDataCmd s = .next (s.raise .rxUnderflow (.reg .dataCmd)))

/-- R108, R109: masked as the rules say a program must, the two reads with free bits are exact whatever those bits
are. -/
def Obligations.MaskedReadsAreExact : Prop :=
  (∀ (u : BitVec 31) (b : Bool), enStatusValue u b &&& 1#32 = if b then 1#32 else 0#32)
  ∧ ∀ (u : BitVec 24) (b : Byte), dataCmdValue u b &&& 0xFF#32 = b.setWidth 32

/-- R143, R144, R145, R47: the routing writes store their one value in any state, and `muxRouted` holds exactly when all
three have been made. -/
def Obligations.RoutingWritesRouteTheLines : Prop :=
  ∀ s : State,
    exec .wSysUsefpga s = .next { s with sys := { s.sys with usefpga := .written 0#32 } }
    ∧ exec .wSysGpioA s = .next { s with sys := { s.sys with gpioA := .written 1#32 } }
    ∧ exec .wSysGpioB s = .next { s with sys := { s.sys with gpioB := .written 1#32 } }
    ∧ (s.muxRouted = true ↔
        s.sys = { usefpga := .written 0#32, gpioA := .written 1#32, gpioB := .written 1#32 })

/-! ### Host statements -/

/-- R245: `WRI` performs the write its selector and value name, where that write executes normally, and moves to the
next statement; and `WRV` (R246) the same with the value of its variable. `WRV` writes form START only at
the instances whose parameter `wrvStartForm` follows R246's pseudocode and not its corner case (DESIGN CHOICE, log 21). -/
def Obligations.HostWritesPerformTheRegisterWrite : Prop :=
  ∀ (s : State) (sel : Byte) (r : RegName) (v : Word) (f : WriteForm),
    selectorRegister sel = some r → decodeWrite s.cfg r v = .ok f → writeRuns f s →
    ∃ t : State, exec f.toInstr s = .next t ∧ t.out = s.out ∧ t.host = s.host
      ∧ exec (.wri sel v) s = .next { t with host := { t.host with pc := s.host.pc + 1 } }
      ∧ ∀ vs : VarIx, s.host.vars[vs] = .written v →
          s.cfg.wrvStartForm = true ∨ r ≠ .dataCmd ∨ v.toNat ≤ 0xFF ∨ v = 0x100#32 →
          exec (.wrv sel vs) s = .next { t with host := { t.host with pc := s.host.pc + 1 } }

/-- R245, R246, R130: a host write whose value is not admitted is refused, and one whose register rule faults records
that fault, with no other effect: `WRI` whatever the variables hold, `WRV` with the value of its variable. R246's corner
case, a `WRV` of DATA_CMD with a variable above 0xFF and not 0x100 refused with X3, holds at the instances whose parameter
`wrvStartForm` does not hold; at the others a START form is taken as R246's pseudocode and R104 say (DESIGN CHOICE,
log 21). -/
def Obligations.HostWritesTakeTheRegisterRulesStops : Prop :=
  ∀ (s : State) (sel : Byte) (r : RegName) (v : Word), selectorRegister sel = some r →
    (∀ (c : RefusalCode) (info : Info), decodeWrite s.cfg r v = .error (c, info) →
      exec (.wri sel v) s = .next (s.refuse c info)
      ∧ ∀ vs : VarIx, s.host.vars[vs] = .written v → exec (.wrv sel vs) s = .next (s.refuse c info))
    ∧ (s.cfg.wrvStartForm = false → r = .dataCmd → 0xFF < v.toNat → v ≠ 0x100#32 →
      ∀ vs : VarIx, s.host.vars[vs] = .written v → exec (.wrv sel vs) s = .next (s.refuse .unadmittedWriteValue (.value v)))
    ∧ ∀ f : WriteForm, decodeWrite s.cfg r v = .ok f → ¬ writeRuns f s →
      ∃ c info, exec f.toInstr s = .next (s.raise c info) ∧ exec (.wri sel v) s = .next (s.raise c info)
        ∧ ∀ vs : VarIx, s.host.vars[vs] = .written v →
            s.cfg.wrvStartForm = true ∨ r ≠ .dataCmd ∨ v.toNat ≤ 0xFF ∨ v = 0x100#32 →
            exec (.wrv sel vs) s = .next (s.raise c info)

/-- R247: `RD` of each readable register, and its stops: F1 for an empty RX FIFO, X4 for a write-only register. The count
of free values (log 8) and the information X4 records (log 12) are the model's own; that an RX FIFO level of 2^32 or more
is read modulo 2^32 is the model's reading (log 15). -/
def Obligations.HostReadsLoadTheRegister : Prop :=
  ∀ (s : State) (vd : VarIx) (sel : Byte),
    (selectorRegister sel = some .enStatus →
      ∃ u : BitVec 31, exec (.rd vd sel) s =
        .next { s with
          host := { s.host with
            pc := s.host.pc + 1, vars := s.host.vars.set vd (.written (u ++ BitVec.ofBool s.ctl.enStatus)) }
          env := { s.env with draws := s.env.draws + 1 } })
    ∧ (selectorRegister sel = some .rxflr →
      exec (.rd vd sel) s =
        .next { s with
          host := { s.host with
            pc := s.host.pc + 1, vars := s.host.vars.set vd (.written (BitVec.ofNat 32 s.ctl.rxFifo.length)) } })
    ∧ (selectorRegister sel = some .dataCmd → ∀ (b : Byte) (bs : List Byte), s.ctl.rxFifo = b :: bs →
      ∃ u : BitVec 24, exec (.rd vd sel) s =
        .next { s with
          ctl := { s.ctl with rxFifo := bs }
          host := { s.host with pc := s.host.pc + 1, vars := s.host.vars.set vd (.written (u ++ b)) }
          env := { s.env with draws := s.env.draws + 1 } })
    ∧ (selectorRegister sel = some .dataCmd → s.ctl.rxFifo = [] →
      exec (.rd vd sel) s = .next (s.raise .rxUnderflow (.reg .dataCmd)))
    ∧ ∀ r : RegName, selectorRegister sel = some r → r ≠ .enStatus → r ≠ .rxflr → r ≠ .dataCmd →
      exec (.rd vd sel) s = .next (s.refuse .unadmittedRead (.reg r))

/-- R248, R249, R251, R252, R254, R250: the statements with an immediate, their encodings and their F7. -/
def Obligations.ImmediateArithmetic : Prop :=
  ∀ (s : State) (vd vs : VarIx) (imm : Word),
    (decodeHost (packHost 0x10#8 vd 0 0 0#8 imm) = .ok (.movi vd imm)
      ∧ decodeHost (packHost 0x11#8 vd vs 0 0#8 imm) = .ok (.addi vd vs imm)
      ∧ decodeHost (packHost 0x12#8 vd vs 0 0#8 imm) = .ok (.andi vd vs imm)
      ∧ decodeHost (packHost 0x13#8 vd vs 0 0#8 imm) = .ok (.ori vd vs imm)
      ∧ (imm.toNat ≤ 31 → decodeHost (packHost 0x15#8 vd vs 0 0#8 imm) = .ok (.shli vd vs imm))
      ∧ (31 < imm.toNat →
          ∃ info : Info, decodeHost (packHost 0x15#8 vd vs 0 0#8 imm) = .error (.undecodableHostWord, info)))
    ∧ exec (.movi vd imm) s =
      .next { s with host := { s.host with pc := s.host.pc + 1, vars := s.host.vars.set vd (.written imm) } }
    ∧ (∀ a : Word, s.host.vars[vs] = .written a →
      exec (.addi vd vs imm) s =
        .next { s with host := { s.host with
          pc := s.host.pc + 1, vars := s.host.vars.set vd (.written (BitVec.ofNat 32 (a.toNat + imm.toNat))) } }
      ∧ exec (.andi vd vs imm) s =
        .next { s with host := { s.host with pc := s.host.pc + 1, vars := s.host.vars.set vd (.written (a &&& imm)) } }
      ∧ exec (.ori vd vs imm) s =
        .next { s with host := { s.host with pc := s.host.pc + 1, vars := s.host.vars.set vd (.written (a ||| imm)) } }
      ∧ (imm.toNat ≤ 31 →
        exec (.shli vd vs imm) s =
          .next { s with host := { s.host with
            pc := s.host.pc + 1
            vars := s.host.vars.set vd (.written (BitVec.ofNat 32 (a.toNat * 2 ^ imm.toNat))) } }))
    ∧ (s.host.vars[vs] = .unwritten →
      ∀ i : Instr, i = .addi vd vs imm ∨ i = .andi vd vs imm ∨ i = .ori vd vs imm
          ∨ (i = .shli vd vs imm ∧ imm.toNat ≤ 31) →
        exec i s = .next (s.raise .hostUnwrittenVar (.var vs)))

/-- R253, R255, R250: the statements with two variables, their encodings and their F7. -/
def Obligations.VariableArithmetic : Prop :=
  ∀ (s : State) (vd vs vt : VarIx),
    (decodeHost (packHost 0x14#8 vd vs vt 0#8 0#32) = .ok (.or vd vs vt)
      ∧ decodeHost (packHost 0x16#8 vd vs vt 0#8 0#32) = .ok (.add vd vs vt))
    ∧ (∀ a b : Word, s.host.vars[vs] = .written a → s.host.vars[vt] = .written b →
      exec (.or vd vs vt) s =
        .next { s with host := { s.host with pc := s.host.pc + 1, vars := s.host.vars.set vd (.written (a ||| b)) } }
      ∧ exec (.add vd vs vt) s =
        .next { s with host := { s.host with
          pc := s.host.pc + 1, vars := s.host.vars.set vd (.written (BitVec.ofNat 32 (a.toNat + b.toNat))) } })
    ∧ (s.host.vars[vs] = .unwritten →
      exec (.or vd vs vt) s = .next (s.raise .hostUnwrittenVar (.var vs))
      ∧ exec (.add vd vs vt) s = .next (s.raise .hostUnwrittenVar (.var vs)))
    ∧ (∀ a : Word, s.host.vars[vs] = .written a → s.host.vars[vt] = .unwritten →
      exec (.or vd vs vt) s = .next (s.raise .hostUnwrittenVar (.var vt))
      ∧ exec (.add vd vs vt) s = .next (s.raise .hostUnwrittenVar (.var vt)))

/-- R256, R257, R258, R260: the branches: taken inside the program, taken outside it (F8), not taken (whatever the
target); their encodings and their F7. -/
def Obligations.BranchesCompareVariables : Prop :=
  ∀ (s : State) (vs vt : VarIx) (target : Word),
    (decodeHost (packHost 0x20#8 0 vs vt 0#8 target) = .ok (.beq vs vt target)
      ∧ decodeHost (packHost 0x21#8 0 vs vt 0#8 target) = .ok (.bne vs vt target)
      ∧ decodeHost (packHost 0x22#8 0 vs vt 0#8 target) = .ok (.bltu vs vt target))
    ∧ (∀ (a b : Word) (i : Instr) (taken : Prop), s.host.vars[vs] = .written a → s.host.vars[vt] = .written b →
      (i = .beq vs vt target ∧ (taken ↔ a = b)) ∨ (i = .bne vs vt target ∧ (taken ↔ a ≠ b))
        ∨ (i = .bltu vs vt target ∧ (taken ↔ a.toNat < b.toNat)) →
      (taken → target.toNat < s.prog.length →
        exec i s = .next { s with host := { s.host with pc := target.toNat } })
      ∧ (taken → s.prog.length ≤ target.toNat →
        exec i s = .next (s.raise .hostBadTarget (.index target.toNat)))
      ∧ (¬ taken → exec i s = .next { s with host := { s.host with pc := s.host.pc + 1 } }))
    ∧ (∀ i : Instr, i = .beq vs vt target ∨ i = .bne vs vt target ∨ i = .bltu vs vt target →
      (s.host.vars[vs] = .unwritten → exec i s = .next (s.raise .hostUnwrittenVar (.var vs)))
      ∧ ∀ a : Word, s.host.vars[vs] = .written a → s.host.vars[vt] = .unwritten →
        exec i s = .next (s.raise .hostUnwrittenVar (.var vt)))

/-- R259, R260: `JMP` inside the program and outside it (F8), and its encoding. -/
def Obligations.JumpGoesToItsTarget : Prop :=
  ∀ (s : State) (target : Word),
    decodeHost (packHost 0x23#8 0 0 0 0#8 target) = .ok (.jmp target)
    ∧ (target.toNat < s.prog.length →
      exec (.jmp target) s = .next { s with host := { s.host with pc := target.toNat } })
    ∧ (s.prog.length ≤ target.toNat →
      exec (.jmp target) s = .next (s.raise .hostBadTarget (.index target.toNat)))

/-- R261, R262, R263: the system statements and their encodings: `SLEEP` changes only `pc`, `TXB` and `TXE` the bracket
and `pc`, `HALT` only `halted`. -/
def Obligations.SystemStatements : Prop :=
  ∀ (s : State) (ms : Word),
    (decodeHost (packHost 0x30#8 0 0 0 0#8 ms) = .ok (.sleep ms)
      ∧ decodeHost (packHost 0x31#8 0 0 0 0#8 0#32) = .ok .txb
      ∧ decodeHost (packHost 0x32#8 0 0 0 0#8 0#32) = .ok .txe
      ∧ decodeHost (packHost 0x3F#8 0 0 0 0#8 0#32) = .ok .halt)
    ∧ exec (.sleep ms) s = .next { s with host := { s.host with pc := s.host.pc + 1 } }
    ∧ exec .txb s = .next { s with host := { s.host with pc := s.host.pc + 1, inTxn := true } }
    ∧ exec .txe s = .next { s with host := { s.host with pc := s.host.pc + 1, inTxn := false } }
    ∧ exec .halt s = .next { s with host := { s.host with halted := true } }

/-- R244: the first `Unwritten` source operand of a legal statement raises F7 with its index, and the instruction has no
other effect. A `WRV` with an unmapped selector is refused before its variable is read (R301). -/
def Obligations.UnwrittenSourceFaults : Prop :=
  ∀ (i : Instr) (s : State) (before after : List VarIx) (j : VarIx),
    i.wellFormed = true → (∀ sel vs, i = .wrv sel vs → selectorRegister sel ≠ none) →
    sourceVars i = before ++ j :: after →
    (∀ k ∈ before, s.host.vars[k] ≠ .unwritten) → s.host.vars[j] = .unwritten →
    exec i s = .next (s.raise .hostUnwrittenVar (.var j))

/-- R301: of several reasons to stop the earlier check wins, for every register and at every state: the selector (X2)
before the variables, the value and the register; the variables (F7, `vs` before `vt`) before the register decode, the
register rule and the target (F8); the register decode (X3 or X4) before the register rule (F1, F3, F4, F2, F10); F4
before F2; and the engine's F5 before F6. That a `WRV` takes a START form, and so raises F4, only where `wrvStartForm`
holds and is refused with X3 otherwise is the model's choice (DESIGN CHOICE, log 21). The information X2 and X4 record,
and that of X3 where no rule gives it, is the model's own (log 12); which register F5 names is its reading (log 11). -/
def Obligations.EarlierCheckWins : Prop :=
  ∀ (s : State) (sel : Byte) (vd vs vt : VarIx) (v : Word),
    (selectorRegister sel = none → ∀ i : Instr, i = .wri sel v ∨ i = .wrv sel vs ∨ i = .rd vd sel →
      exec i s = .next (s.refuse .unmappedRegister (.selector sel)))
    ∧ (selectorRegister sel ≠ none → s.host.vars[vs] = .unwritten →
      exec (.wrv sel vs) s = .next (s.raise .hostUnwrittenVar (.var vs)))
    ∧ (s.host.vars[vs] = .unwritten → ∀ i : Instr,
      i = .or vd vs vt ∨ i = .add vd vs vt ∨ i = .beq vs vt v ∨ i = .bne vs vt v ∨ i = .bltu vs vt v →
      exec i s = .next (s.raise .hostUnwrittenVar (.var vs)))
    ∧ (∀ r : RegName, selectorRegister sel = some r → s.cfg.wf = true →
      (r = .con ∧ v ≠ s.cfg.conValue) ∨ (r = .tar ∧ 0x80 ≤ v.toNat) ∨ (r = .fsHcnt ∧ 0x10000 ≤ v.toNat)
        ∨ (r = .fsLcnt ∧ 0x10000 ≤ v.toNat) ∨ (r = .enable ∧ v ≠ 1#32 ∧ v ≠ 2#32)
        ∨ (r = .usefpga ∧ v ≠ 0#32) ∨ (r = .gpioA ∧ v ≠ 1#32) ∨ (r = .gpioB ∧ v ≠ 1#32)
        ∨ r = .rxflr ∨ r = .enStatus
        ∨ (r = .dataCmd ∧ (∀ a : Byte, v ≠ a.setWidth 32 ||| s.cfg.startFlag) ∧ (∀ d : Byte, v ≠ d.setWidth 32)
            ∧ v ≠ 0x100#32) →
      ∃ info : Info, exec (.wri sel v) s = .next (s.refuse .unadmittedWriteValue info)
        ∧ (s.host.vars[vs] = .written v → exec (.wrv sel vs) s = .next (s.refuse .unadmittedWriteValue info)))
    ∧ (∀ r : RegName, selectorRegister sel = some r → r ≠ .enStatus → r ≠ .rxflr → r ≠ .dataCmd →
      exec (.rd vd sel) s = .next (s.refuse .unadmittedRead (.reg r)))
    ∧ (s.cfg.wf = true → s.ctl.enStatus = false → s.ctl.cmdFifo.length = s.cfg.txDepth →
      (∃ b : Byte, v = b.setWidth 32 ||| s.cfg.startFlag ∨ v = b.setWidth 32) ∨ v = 0x100#32 →
      exec (.wri 0x02#8 v) s = .next (s.raise .dataCmdWhileDisabled (.reg .dataCmd))
      ∧ (s.host.vars[vs] = .written v → s.cfg.wrvStartForm = true ∨ v.toNat ≤ 0xFF ∨ v = 0x100#32 →
          exec (.wrv 0x02#8 vs) s = .next (s.raise .dataCmdWhileDisabled (.reg .dataCmd)))
      ∧ (s.host.vars[vs] = .written v → s.cfg.wrvStartForm = false → 0xFF < v.toNat → v ≠ 0x100#32 →
          exec (.wrv 0x02#8 vs) s = .next (s.refuse .unadmittedWriteValue (.value v))))
    ∧ (s.engineEnabled .takeRead = true → s.cfgReady = false → s.ctl.rxFifo.length = s.cfg.rxDepth →
      ∃ r : RegName, s.engineStep .takeRead = s.raise .engineUnconfigured (.reg r))

/-! ### Whole-machine rules about instructions -/

/-- R284: an instruction or a step that raises a fault records it and has no other effect (`env`, the model's own
inputs, aside); then no agent takes a step, the state is no end of a run, and a later fault is not recorded. -/
def Obligations.FaultIsRecordedAndNothingElse : Prop :=
  (∀ (i : Instr) (s t : State), s.out.fault = none → exec i s = .next t → t.out.fault ≠ none →
    ∃ c info, t = { s with out := { s.out with fault := some (c, info) } })
  ∧ (∀ s t : State, step s = .next t → t.out.fault ≠ none →
    ∃ c info, t = { s with out := { s.out with fault := some (c, info) }, env := t.env })
  ∧ ∀ (s : State) (c : FaultCode) (info : Info), s.out.fault = some (c, info) →
    (s.out.refused = none → step s = .fault (.faultRecorded c info)) ∧ (∀ t, step s ≠ .next t)
      ∧ ¬ s.RunEnded ∧ ∀ c' info', s.raise c' info' = s

/-- R285: an instruction or a step that is refused records the refusal and has no other effect (`env` aside); then no
agent takes a step, the state is no end of a run, and a later refusal is not recorded. -/
def Obligations.RefusalIsRecordedAndNothingElse : Prop :=
  (∀ (i : Instr) (s t : State), s.out.refused = none → exec i s = .next t → t.out.refused ≠ none →
    ∃ c info, t = { s with out := { s.out with refused := some (c, info) } })
  ∧ (∀ s t : State, step s = .next t → t.out.refused ≠ none →
    ∃ c info, t = { s with out := { s.out with refused := some (c, info) }, env := t.env })
  ∧ ∀ (s : State) (c : RefusalCode) (info : Info), s.out.refused = some (c, info) →
    (s.out.fault = none → step s = .refused (.refusalRecorded c info)) ∧ (∀ t, step s ≠ .next t)
      ∧ ¬ s.RunEnded ∧ ∀ c' info', s.refuse c' info' = s

/-- A variable changes only where it is the destination (R247 to R255). -/
def Obligations.OnlyTheDestinationVariableChanges : Prop :=
  ∀ (i : Instr) (s t : State) (j : VarIx), exec i s = .next t → destVar i ≠ some j →
    t.host.vars[j] = s.host.vars[j]

/-- R264, R130: of the host notation only `WRI`, `WRV` and `RD` reach a register window, every other statement leaving the
controller, the routing registers and the model's inputs alone; a register access of its own leaves the host's state
alone, and the model's inputs but for the result and the count of free values. -/
def Obligations.EachFamilyLeavesTheOthersStateAlone : Prop :=
  ∀ (i : Instr) (s t : State), exec i s = .next t →
    (reachesWindow i = false → t.ctl = s.ctl ∧ t.sys = s.sys ∧ t.env = s.env)
    ∧ (i.isBus = true → t.host = s.host ∧ t.env.accesses = s.env.accesses ∧ t.env.sched = s.env.sched
        ∧ t.env.acks = s.env.acks ∧ t.env.rxBytes = s.env.rxBytes)

/-- R242, R261, R263: every statement but a branch, a jump and `HALT` moves to the next one unless it stops; only `HALT`
halts; only `TXB` and `TXE` change the bracket. -/
def Obligations.StatementsMoveToTheNext : Prop :=
  ∀ (i : Instr) (s t : State), s.out = { fault := none, refused := none } → exec i s = .next t →
    (i.isBus = false → (∀ l, i ≠ .jmp l) → (∀ a b l, i ≠ .beq a b l) → (∀ a b l, i ≠ .bne a b l) →
      (∀ a b l, i ≠ .bltu a b l) → i ≠ .halt → t.out = s.out → t.host.pc = s.host.pc + 1)
    ∧ (t.host.halted ≠ s.host.halted → i = .halt)
    ∧ (t.host.inTxn ≠ s.host.inTxn → i = .txb ∨ i = .txe)

/-- R37, R45, R53: no instruction touches what belongs to the engine: the enable status, the phase, the abort latch, the
bus log; it can only append to the command FIFO and only take from the RX FIFO (R84). -/
def Obligations.InstructionsLeaveTheEngineAlone : Prop :=
  ∀ (i : Instr) (s t : State), exec i s = .next t →
    t.ctl.enStatus = s.ctl.enStatus ∧ t.ctl.phase = s.ctl.phase ∧ t.ctl.abortLatch = s.ctl.abortLatch
    ∧ t.ctl.busLog = s.ctl.busLog
    ∧ (t.ctl.cmdFifo = s.ctl.cmdFifo ∨ ∃ e, t.ctl.cmdFifo = s.ctl.cmdFifo ++ [e])
    ∧ (t.ctl.rxFifo = s.ctl.rxFifo ∨ ∃ b, s.ctl.rxFifo = b :: t.ctl.rxFifo)

/-! ### The engine -/

/-- R170, R188: the guards of the engine's steps, `gapHeld` under the two gap models, and that a step whose guard fails
is not taken. -/
def Obligations.EngineGuards : Prop :=
  ∀ s : State,
    (s.engineEnabled .enableSync = true ↔ s.ctl.enReq = true ∧ s.ctl.enStatus = false)
    ∧ (s.engineEnabled .disableSync = true ↔ s.ctl.enReq = false ∧ s.ctl.enStatus = true)
    ∧ (s.engineEnabled .takeStart = true ↔
        s.ctl.enStatus = true ∧ s.ctl.abortLatch = false ∧ ∃ a, s.ctl.cmdFifo.head? = some (.wr a true))
    ∧ (s.engineEnabled .takeData = true ↔
        s.ctl.enStatus = true ∧ s.ctl.abortLatch = false ∧ ∃ d, s.ctl.cmdFifo.head? = some (.wr d false))
    ∧ (s.engineEnabled .takeRead = true ↔
        s.ctl.enStatus = true ∧ s.ctl.abortLatch = false ∧ s.ctl.cmdFifo.head? = some .rd)
    ∧ (s.engineEnabled .stop = true ↔
        s.ctl.enStatus = true ∧ s.ctl.cmdFifo = [] ∧ s.ctl.phase ≠ .idle ∧ s.gapHeld = false)
    ∧ (s.engineEnabled .discard = true ↔
        s.ctl.enStatus = true ∧ s.ctl.abortLatch = true ∧ s.ctl.cmdFifo ≠ [])
    ∧ (s.cfg.gapModel = .free → s.gapHeld = false)
    ∧ (s.cfg.gapModel = .bracketed → s.gapHeld = s.host.inTxn)
    ∧ ∀ e : EngineStep, s.engineEnabled e = false → s.engineStep e = s

/-- R171, R172, R176, R178: the two sync steps, the stop step and the discard step. -/
def Obligations.SyncStopAndDiscard : Prop :=
  ∀ s : State,
    (s.ctl.enReq = true → s.ctl.enStatus = false →
      s.engineStep .enableSync = { s with ctl := { s.ctl with enStatus := true } })
    ∧ (s.ctl.enReq = false → s.ctl.enStatus = true →
      s.engineStep .disableSync =
        { s with ctl := { s.ctl with
            phase := .idle, cmdFifo := [], rxFifo := [], abortLatch := false, enStatus := false
            busLog := if s.ctl.phase = .idle then s.ctl.busLog else s.ctl.busLog ++ [.stop] } })
    ∧ (s.ctl.enStatus = true → s.ctl.cmdFifo = [] → s.ctl.phase ≠ .idle → s.gapHeld = false →
      s.engineStep .stop = { s with ctl := { s.ctl with busLog := s.ctl.busLog ++ [.stop], phase := .idle } })
    ∧ ∀ (e : CmdEntry) (rest : List CmdEntry),
      s.ctl.enStatus = true → s.ctl.abortLatch = true → s.ctl.cmdFifo = e :: rest →
      s.engineStep .discard = { s with ctl := { s.ctl with cmdFifo := rest } }

/-- R173, R177: taking a START entry: F5 where `cfgReady` fails, else the address and the byte are sent. `k1`
and `k2` are the remote device's acknowledgements of the address and of the byte: `k1` is true where R184 fixes it, and
that `k2` is then true too, a data phase having the address of its transaction, is the model's reading (DEDUCED, log 14).
Else they are the oracle's answers at the bus log of the moment, unless the model is given answers, of which `acks` is
what is left (log 7). -/
def Obligations.TakingAStartEntry : Prop :=
  ∀ (s : State) (b : Byte) (rest : List CmdEntry),
    s.ctl.enStatus = true → s.ctl.abortLatch = false → s.ctl.cmdFifo = .wr b true :: rest →
    (s.cfgReady = false → ∃ r : RegName, s.engineStep .takeStart = s.raise .engineUnconfigured (.reg r))
    ∧ ∀ a : Addr7, s.cfgReady = true → s.ctl.tar = .written a →
    ∃ (k1 k2 : Bool) (acks : List Bool), (s.ackAssured a = true → k1 = true ∧ k2 = true) ∧
      (s.ackAssured a = false → s.env.acks = [] → k1 = Config.freeAck s.ctl.busLog (.addr a .w) ∧
        k2 = Config.freeAck
          (s.ctl.busLog ++ [if s.ctl.phase = .idle then .start a .w k1 else .restart a .w k1]) (.data b)) ∧
      s.engineStep .takeStart =
        { s with
          ctl := { s.ctl with
            cmdFifo := if k1 && k2 then rest else []
            phase := if k1 && k2 then .write else .idle
            abortLatch := !(k1 && k2)
            busLog := s.ctl.busLog ++ [if s.ctl.phase = .idle then .start a .w k1 else .restart a .w k1]
              ++ (if k1 then [.tx b k2] else []) ++ (if k1 && k2 then [] else [.stop]) }
          env := { s.env with acks := acks } }

/-- R174, R177: taking a DATA entry: F5 where `cfgReady` fails; else in an open write the byte goes on, and otherwise it
is addressed first. That `k2`, the acknowledgement of the byte, is true where R184 fixes that of the address is the
model's reading (DEDUCED, log 14); `acks` is what is left of given answers (log 7). -/
def Obligations.TakingADataEntry : Prop :=
  ∀ (s : State) (d : Byte) (rest : List CmdEntry),
    s.ctl.enStatus = true → s.ctl.abortLatch = false → s.ctl.cmdFifo = .wr d false :: rest →
    (s.cfgReady = false → ∃ r : RegName, s.engineStep .takeData = s.raise .engineUnconfigured (.reg r))
    ∧ ∀ a : Addr7, s.cfgReady = true → s.ctl.tar = .written a →
    ∃ (k1 k2 : Bool) (acks : List Bool), (s.ackAssured a = true → k1 = true ∧ k2 = true) ∧
      (s.ctl.phase = .write → k1 = true) ∧
      (s.ackAssured a = false → s.env.acks = [] →
        (s.ctl.phase ≠ .write → k1 = Config.freeAck s.ctl.busLog (.addr a .w)) ∧
        k2 = Config.freeAck
          (s.ctl.busLog ++ (if s.ctl.phase = .idle then [.start a .w k1] else if s.ctl.phase = .write then []
            else [.restart a .w k1])) (.data d)) ∧
      s.engineStep .takeData =
        { s with
          ctl := { s.ctl with
            cmdFifo := if k1 && k2 then rest else []
            phase := if k1 && k2 then .write else .idle
            abortLatch := !(k1 && k2)
            busLog := s.ctl.busLog
              ++ (if s.ctl.phase = .idle then [.start a .w k1] else if s.ctl.phase = .write then []
                  else [.restart a .w k1])
              ++ (if k1 then [.tx d k2] else []) ++ (if k1 && k2 then [] else [.stop]) }
          env := { s.env with acks := acks } }

/-- R175, R177: taking a READ entry: F5 where `cfgReady` fails, then F6 with the RX FIFO full; else an open read goes on,
and otherwise the bus is addressed in the read direction. `k` is the remote device's acknowledgement of the address and
`b` the byte it sends: the oracle's answers at the bus log of the moment, unless the model is given answers, of which
`acks` and `bytes` are what is left (DESIGN CHOICE, log 7). -/
def Obligations.TakingAReadEntry : Prop :=
  ∀ (s : State) (rest : List CmdEntry),
    s.ctl.enStatus = true → s.ctl.abortLatch = false → s.ctl.cmdFifo = .rd :: rest →
    (s.cfgReady = false → ∃ r : RegName, s.engineStep .takeRead = s.raise .engineUnconfigured (.reg r))
    ∧ (s.cfgReady = true → s.ctl.rxFifo.length = s.cfg.rxDepth →
        s.engineStep .takeRead = s.raise .rxOverflow (.depth s.cfg.rxDepth))
    ∧ ∀ a : Addr7, s.cfgReady = true → s.ctl.tar = .written a → s.ctl.rxFifo.length ≠ s.cfg.rxDepth →
    ∃ (k : Bool) (b : Byte) (acks : List Bool) (bytes : List Byte), (s.ackAssured a = true → k = true) ∧
      (s.ctl.phase = .read → k = true) ∧
      (s.ackAssured a = false → s.env.acks = [] → s.ctl.phase ≠ .read →
        k = Config.freeAck s.ctl.busLog (.addr a .r)) ∧
      (s.env.rxBytes = [] →
        b = Config.freeByte
          (s.ctl.busLog ++ (if s.ctl.phase = .idle then [.start a .r k] else if s.ctl.phase = .read then []
            else [.restart a .r k]))) ∧
      s.engineStep .takeRead =
        { s with
          ctl := { s.ctl with
            cmdFifo := if k then rest else []
            phase := if k then .read else .idle
            abortLatch := !k
            rxFifo := if k then s.ctl.rxFifo ++ [b] else s.ctl.rxFifo
            busLog := s.ctl.busLog
              ++ (if s.ctl.phase = .idle then [.start a .r k] else if s.ctl.phase = .read then []
                  else [.restart a .r k])
              ++ (if k then [.rx b] else [.stop]) }
          env := { s.env with acks := acks, rxBytes := bytes } }

/-- R179, R180, R301: an entry taken while `cfgReady` fails raises F5 (which register it names when several fail is the
model's reading, log 11); a READ entry taken with the RX FIFO full raises F6, F5 first. -/
def Obligations.EngineFaults : Prop :=
  ∀ s : State,
    (∀ e : EngineStep, e = .takeStart ∨ e = .takeData ∨ e = .takeRead → s.engineEnabled e = true → s.cfgReady = false →
      ∃ r, (r = .con ∧ s.ctl.con ≠ .written s.cfg.conValue ∨ r = .tar ∧ s.ctl.tar = .unwritten
          ∨ r = .fsHcnt ∧ s.ctl.hcnt = .unwritten ∨ r = .fsLcnt ∧ s.ctl.lcnt = .unwritten)
        ∧ s.engineStep e = s.raise .engineUnconfigured (.reg r))
    ∧ (s.engineEnabled .takeRead = true → s.cfgReady = true → s.ctl.rxFifo.length = s.cfg.rxDepth →
      s.engineStep .takeRead = s.raise .rxOverflow (.depth s.cfg.rxDepth))

/-- R184, R185: an acknowledgement is fixed at `true` exactly under `ASSUME_ACK`, with the pins routed and the address
`ACCEL_ADDR7`; that a data phase has the address of its transaction is the model's reading (DEDUCED, log 14). Otherwise
it is the next given answer, and with none given the free value of the bus log and phase, which is how the model has the
oracle (DESIGN CHOICE, log 7). -/
def Obligations.AcknowledgementIsFreeUnlessAssumed : Prop :=
  ∀ (s : State) (a : Addr7) (p : AckPhase),
    (s.cfg.assumeAck = true → s.muxRouted = true → a = s.cfg.accelAddr7 → s.askAck a p = (true, s))
    ∧ (s.cfg.assumeAck = false ∨ s.muxRouted = false ∨ a ≠ s.cfg.accelAddr7 →
      (s.env.acks = [] → s.askAck a p = (Config.freeAck s.ctl.busLog p, s))
      ∧ ∀ k ks, s.env.acks = k :: ks → s.askAck a p = (k, { s with env := { s.env with acks := ks } }))

/-- R170, R187, R189, R190: while not enabled the engine has no step but enable sync; while enabled with an entry pending
it has a fair step, whether or not a disable is requested; two steps are enabled together only if one of them is the
disable sync. -/
def Obligations.WhichEngineStepsAreOpen : Prop :=
  ∀ s : State,
    (s.ctl.enStatus = false → ∀ e : EngineStep, s.engineEnabled e = true → e = .enableSync)
    ∧ (s.ctl.enStatus = true → s.ctl.cmdFifo ≠ [] → ∃ e : EngineStep, fairStep e = true ∧ s.engineEnabled e = true)
    ∧ ∀ e f : EngineStep, s.engineEnabled e = true → s.engineEnabled f = true → e ≠ f →
      e = .disableSync ∨ f = .disableSync

/-- The engine leaves the host, the routing registers, the configuration, the enable request, the parameters and the
program alone (R171 to R178, R309). -/
def Obligations.EngineLeavesTheRestAlone : Prop :=
  ∀ (s : State) (e : EngineStep),
    (s.engineStep e).host = s.host ∧ (s.engineStep e).sys = s.sys ∧ (s.engineStep e).cfg = s.cfg
    ∧ (s.engineStep e).prog = s.prog ∧ (s.engineStep e).ctl.con = s.ctl.con ∧ (s.engineStep e).ctl.tar = s.ctl.tar
    ∧ (s.engineStep e).ctl.hcnt = s.ctl.hcnt ∧ (s.engineStep e).ctl.lcnt = s.ctl.lcnt
    ∧ (s.engineStep e).ctl.enReq = s.ctl.enReq ∧ (s.engineStep e).out.refused = s.out.refused

/-- R179: the engine does not use the values of the two SCL counts: with other counts written, it does the same and
keeps them. -/
def Obligations.EngineIgnoresTheCounts : Prop :=
  ∀ (s : State) (e : EngineStep) (h h' l l' : Count), s.ctl.hcnt = .written h → s.ctl.lcnt = .written l →
    ({ s with ctl := { s.ctl with hcnt := .written h', lcnt := .written l' } } : State).engineStep e =
      { s.engineStep e with ctl := { (s.engineStep e).ctl with hcnt := .written h', lcnt := .written l' } }

/-! ### The step -/

/-- R242, R243: when the word at `pc` decodes to an instruction, the host's step is that instruction, at the state with
the turn taken. -/
def Obligations.StepRunsTheDecodedStatement : Prop :=
  ∀ (s : State) (w : HostWord) (i : Instr), s.HostTakesStatement → s.prog[s.host.pc]? = some w →
    decodeHost w = .ok i → step s = exec i s.takeTurn

/-- R130: when an access of the host's own is pending and decodes to an instruction, the step of a host that has not
halted is that instruction, with the access taken off; one that does not decode is refused (R101). That accesses without
a program (R117) stand in a list, are taken off it one a step, and come before the program's statements, is the model's
choice (DESIGN CHOICE, log 9). -/
def Obligations.StepRunsTheDecodedAccess : Prop :=
  ∀ (s : State) (a : HostAccess) (rest : List HostAccess), s.out.fault = none → s.out.refused = none → s.turn = .host →
    s.host.halted = false → s.env.accesses = a :: rest →
    (∀ i : Instr, decodeHostAccess s.cfg a = .ok i →
      step s = exec i { s.takeTurn with env := { s.takeTurn.env with accesses := rest } })
    ∧ ∀ (c : RefusalCode) (info : Info), decodeHostAccess s.cfg a = .error (c, info) →
      step s = .next (s.takeTurn.refuse c info)

/-- R170, R242, R261: an engine turn is the engine's step; off its program the host raises F9; a halted host takes no
step. That the turn of a halted host then passes is the model's choice (DESIGN CHOICE, log 6), and that a machine in which
no agent has a step answers the stop `noAgentHasStep` is its reading of R271 (DEDUCED, log 18). -/
def Obligations.StepOfEachAgent : Prop :=
  (∀ (s : State) (e : EngineStep), s.out.fault = none → s.out.refused = none →
    (s.hostHasStep = true ∨ s.engineHasStep = true) → s.turn = .engine e → step s = .next (s.takeTurn.engineStep e))
  ∧ (∀ s : State, s.HostTakesStatement → s.prog.length ≤ s.host.pc →
    step s = .next (s.takeTurn.raise .hostPcOut (.index s.host.pc)))
  ∧ (∀ s : State, s.out.fault = none → s.out.refused = none → s.engineHasStep = true → s.turn = .host →
    s.host.halted = true → step s = .next s.takeTurn)
  ∧ ∀ s : State, s.out.fault = none → s.out.refused = none → s.host.halted = true →
    s.engineHasStep = false → step s = .fault .noAgentHasStep

/-! ### Reset and invariants -/

/-- R311, R313: the values the spec gives at `ResetLaunch`. -/
def Obligations.ResetIsResetLaunch : Prop :=
  State.reset.ctl =
    { con := .unwritten, tar := .unwritten, hcnt := .unwritten, lcnt := .unwritten, enReq := false, enStatus := false,
      cmdFifo := [], rxFifo := [], phase := .idle, abortLatch := false, busLog := [] }
  ∧ State.reset.sys = { usefpga := .unwritten, gpioA := .unwritten, gpioB := .unwritten }
  ∧ State.reset.muxRouted = false
  ∧ State.reset.host.pc = 0 ∧ (∀ j : VarIx, State.reset.host.vars[j] = .unwritten)
  ∧ State.reset.host.halted = false ∧ State.reset.host.inTxn = false
  ∧ State.reset.out = { fault := none, refused := none }

/-- The invariants below hold at reset, and `ResetLaunch` is a special case of `AnyLaunch` (R312). That the parameters at
reset meet the constraints of R11 rests on the default values (PRESUMED, log 2). -/
def Obligations.ResetMeetsTheInvariants : Prop :=
  State.reset.Inv ∧ State.reset.Framed ∧ State.reset.RegsAdmitted ∧ State.reset.cfg.wf = true
  ∧ ∀ s : State, s.ResetLaunch → s.AnyLaunch

/-- R314 (a rule the spec derives): every step keeps the invariant: nothing is queued, open or latched while disabled, and the FIFOs stay within
their depths. -/
def Obligations.StepKeepsTheInvariant : Prop :=
  ∀ s t : State, s.Inv → step s = .next t → t.Inv

/-- R314, which the spec derives from its other rules ("[derived: from rule R312 and 41_bus_engine.md rules R172, R189]"):
the invariant holds in every state reachable from `AnyLaunch`, under every schedule and every answer of the remote
device. -/
def Obligations.ReachableStatesMeetTheInvariant : Prop :=
  ∀ s : State, Reaches State.AnyLaunch s → s.Inv

/-- R43, R45, R173 to R177: every step keeps the bus log a sequence of well-framed transactions with the phase saying
where the last one stands. -/
def Obligations.StepKeepsTheBusLogFramed : Prop :=
  ∀ s t : State, s.Framed → step s = .next t → t.Framed

/-- R312, R102: every step keeps the configuration and routing registers `Unwritten` or at an admitted value. -/
def Obligations.StepKeepsRegistersAdmitted : Prop :=
  ∀ s t : State, s.RegsAdmitted → step s = .next t → t.RegsAdmitted

/-- R241, R10: no step changes the program or the parameters. -/
def Obligations.StepKeepsProgramAndParameters : Prop :=
  ∀ s t : State, step s = .next t → t.prog = s.prog ∧ t.cfg = s.cfg

/-- R45: the engine appends to the bus log and nothing removes from it; a step of the host leaves it alone. -/
def Obligations.BusLogOnlyGrows : Prop :=
  ∀ s t : State, step s = .next t →
    ∃ events, t.ctl.busLog = s.ctl.busLog ++ events ∧ (s.turn = .host → events = [])

/-- R84: neither FIFO reorders, drops or duplicates: a step leaves one alone, appends at its tail, takes its head, or
empties it, which only a disable sync (R172) and, for the command FIFO, a missing acknowledgement that sets the abort
latch (R177) do. -/
def Obligations.FifosKeepOrder : Prop :=
  ∀ s t : State, step s = .next t →
    (t.ctl.cmdFifo = s.ctl.cmdFifo ∨ (∃ e, t.ctl.cmdFifo = s.ctl.cmdFifo ++ [e]) ∨ (∃ e, s.ctl.cmdFifo = e :: t.ctl.cmdFifo)
      ∨ (t.ctl.cmdFifo = [] ∧ (s.turn = .engine .disableSync
          ∨ (s.ctl.abortLatch = false ∧ t.ctl.abortLatch = true
            ∧ (s.turn = .engine .takeStart ∨ s.turn = .engine .takeData ∨ s.turn = .engine .takeRead)))))
    ∧ (t.ctl.rxFifo = s.ctl.rxFifo ∨ (∃ b, t.ctl.rxFifo = s.ctl.rxFifo ++ [b]) ∨ (∃ b, s.ctl.rxFifo = b :: t.ctl.rxFifo)
      ∨ (t.ctl.rxFifo = [] ∧ s.turn = .engine .disableSync))

/-- R288, R309: while enabled, or with an enable requested, no step of any agent changes a configuration register. -/
def Obligations.ConfigurationIsLockedWhileEnabled : Prop :=
  ∀ s t : State, s.cfgLocked = true → step s = .next t →
    t.ctl.con = s.ctl.con ∧ t.ctl.tar = s.ctl.tar ∧ t.ctl.hcnt = s.ctl.hcnt ∧ t.ctl.lcnt = s.ctl.lcnt

/-- R46, R44: the enable status changes only by a sync step, to what is requested; the abort latch is cleared only by
the disable sync. -/
def Obligations.OnlySyncStepsChangeStatus : Prop :=
  ∀ s t : State, step s = .next t →
    (t.ctl.enStatus ≠ s.ctl.enStatus →
      t.ctl.enStatus = s.ctl.enReq ∧ (s.turn = .engine .enableSync ∨ s.turn = .engine .disableSync))
    ∧ (s.ctl.abortLatch = true → t.ctl.abortLatch = false → s.turn = .engine .disableSync)

/-! ### Driver primitives -/

/-- R118, R265 to R269: every pseudo-instruction expands to the statements its rule lists, with their registers, values and
branch targets, `base` being the index of the first; the words they are written as decode to them, one by one; and the
operands R266, R268 and R269 admit. A register stands by its selector (R113) and a target as an absolute index, modulo
2^32 for a program that long (DESIGN CHOICE, log 22). -/
def Obligations.PseudoInstructionsExpandToStatements : Prop :=
  ∀ (P : Params) (base : Nat),
    (∀ p : Pseudo, (hostWords P (p.expand P base)).map decodeHost = (p.expand P base).map .ok)
    ∧ (∀ (vd : VarIx) (sel : Byte), (Pseudo.pollnz vd sel).expand P base =
        [.movi 13 0#32, .rd vd sel, .beq vd 13 (BitVec.ofNat 32 (base + 1))])
    ∧ Pseudo.muxinit.expand P base = [.wri 0x10#8 0#32, .wri 0x11#8 1#32, .wri 0x12#8 1#32]
    ∧ (∀ (code : Word) (vr : VarIx), (Pseudo.seten code vr).expand P base =
        [ .wri 0x05#8 code, .movi 14 0#32, .movi 13 (code &&& 1#32), .movi 12 100#32,
          .rd 15 0x07#8, .andi 15 15 1#32, .beq 15 13 (BitVec.ofNat 32 (base + 12)),
          .beq 14 12 (BitVec.ofNat 32 (base + 12)), .wri 0x05#8 code, .sleep 1#32, .addi 14 14 1#32,
          .jmp (BitVec.ofNat 32 (base + 4)), .movi 12 10#32, .movi vr 1#32,
          .bltu 14 12 (BitVec.ofNat 32 (base + 16)), .movi vr 0#32 ])
    ∧ (∀ vr : VarIx, (Pseudo.init vr).expand P base =
        (Pseudo.seten 2#32 vr).expand P base
          ++ [ .movi 13 0#32, .beq vr 13 (BitVec.ofNat 32 (base + 38)), .wri 0x00#8 P.conValue,
               .wri 0x01#8 (P.accelAddr7.setWidth 32), .wri 0x03#8 90#32, .wri 0x04#8 160#32 ]
          ++ (Pseudo.seten 1#32 vr).expand P (base + 22))
    ∧ (∀ (vd : VarIx) (a : Byte), (Pseudo.readreg vd a).expand P base =
        [.txb, .wri 0x02#8 (a.setWidth 32 ||| P.startFlag), .wri 0x02#8 0x100#32, .txe]
          ++ (Pseudo.pollnz 15 0x06#8).expand P (base + 4) ++ [.rd vd 0x02#8, .andi vd vd 0xFF#32])
    ∧ (∀ a b : Byte, (Pseudo.writereg a b).expand P base =
        [.txb, .wri 0x02#8 (a.setWidth 32 ||| P.startFlag), .wri 0x02#8 (b.setWidth 32), .txe])
    ∧ (∀ (a : Byte) (vs : VarIx), (Pseudo.writeregv a vs).expand P base =
        [.txb, .wri 0x02#8 (a.setWidth 32 ||| P.startFlag), .wrv 0x02#8 vs, .txe])
    ∧ (∀ (a : Byte) (n : Nat) (vb : VarIx), (Pseudo.readburst a n vb).expand P base =
        [.txb, .wri 0x02#8 (a.setWidth 32 ||| P.startFlag)] ++ List.replicate n (.wri 0x02#8 0x100#32) ++ [.txe]
          ++ (List.range n).flatMap fun i =>
            (Pseudo.pollnz 15 0x06#8).expand P (base + n + 3 + 5 * i)
              ++ [.rd (Fin.ofNat 16 (vb.val + i)) 0x02#8,
                  .andi (Fin.ofNat 16 (vb.val + i)) (Fin.ofNat 16 (vb.val + i)) 0xFF#32])
    ∧ ∀ (code : Word) (v : VarIx) (a : Byte) (n : Nat),
      ((Pseudo.seten code v).admitted = true ↔ (code = 1#32 ∨ code = 2#32) ∧ v.val < 12)
      ∧ ((Pseudo.init v).admitted = true ↔ v.val < 12) ∧ ((Pseudo.readreg v a).admitted = true ↔ v.val < 12)
      ∧ ((Pseudo.readburst a n v).admitted = true ↔ v.val + n ≤ 12)
end

