-- ==== Sys2Proof/Laws/Encoding.lean ====
section
/-! SUPPORT. The fields of a packed host word are the fields it was packed from (30_encoding.md R111). -/

namespace Sys2Proof

@[simp] theorem fieldOp_packHost (op : Byte) (d s t : VarIx) (sel : Byte) (imm : Word) :
    fieldOp (packHost op d s t sel imm) = op := by
  unfold fieldOp packHost
  ext i hi
  simp only [BitVec.getElem_extractLsb', BitVec.getLsbD_append]
  rw [← BitVec.getLsbD_eq_getElem hi]
  repeat' split
  all_goals (first | omega | (congr 1; omega))

theorem packHost_d (op : Byte) (d s t : VarIx) (sel : Byte) (imm : Word) :
    (packHost op d s t sel imm).extractLsb' 52 4 = BitVec.ofFin (w := 4) d := by
  unfold packHost
  ext i hi
  simp only [BitVec.getElem_extractLsb', BitVec.getLsbD_append]
  rw [← BitVec.getLsbD_eq_getElem hi]
  repeat' split
  all_goals (first | omega | (congr 1; omega))

theorem packHost_s (op : Byte) (d s t : VarIx) (sel : Byte) (imm : Word) :
    (packHost op d s t sel imm).extractLsb' 48 4 = BitVec.ofFin (w := 4) s := by
  unfold packHost
  ext i hi
  simp only [BitVec.getElem_extractLsb', BitVec.getLsbD_append]
  rw [← BitVec.getLsbD_eq_getElem hi]
  repeat' split
  all_goals (first | omega | (congr 1; omega))

theorem packHost_t (op : Byte) (d s t : VarIx) (sel : Byte) (imm : Word) :
    (packHost op d s t sel imm).extractLsb' 44 4 = BitVec.ofFin (w := 4) t := by
  unfold packHost
  ext i hi
  simp only [BitVec.getElem_extractLsb', BitVec.getLsbD_append]
  rw [← BitVec.getLsbD_eq_getElem hi]
  repeat' split
  all_goals (first | omega | (congr 1; omega))

@[simp] theorem fieldD_packHost (op : Byte) (d s t : VarIx) (sel : Byte) (imm : Word) :
    fieldD (packHost op d s t sel imm) = d := by
  unfold fieldD
  rw [packHost_d]

@[simp] theorem fieldS_packHost (op : Byte) (d s t : VarIx) (sel : Byte) (imm : Word) :
    fieldS (packHost op d s t sel imm) = s := by
  unfold fieldS
  rw [packHost_s]

@[simp] theorem fieldT_packHost (op : Byte) (d s t : VarIx) (sel : Byte) (imm : Word) :
    fieldT (packHost op d s t sel imm) = t := by
  unfold fieldT
  rw [packHost_t]

@[simp] theorem fieldZ_packHost (op : Byte) (d s t : VarIx) (sel : Byte) (imm : Word) :
    fieldZ (packHost op d s t sel imm) = 0#4 := by
  unfold fieldZ packHost
  ext i hi
  simp only [BitVec.getElem_extractLsb', BitVec.getLsbD_append]
  rw [← BitVec.getLsbD_eq_getElem hi]
  repeat' split
  all_goals (first | omega | (congr 1; omega))

@[simp] theorem fieldSel_packHost (op : Byte) (d s t : VarIx) (sel : Byte) (imm : Word) :
    fieldSel (packHost op d s t sel imm) = sel := by
  unfold fieldSel packHost
  ext i hi
  simp only [BitVec.getElem_extractLsb', BitVec.getLsbD_append]
  rw [← BitVec.getLsbD_eq_getElem hi]
  repeat' split
  all_goals (first | omega | (congr 1; omega))

@[simp] theorem fieldImm_packHost (op : Byte) (d s t : VarIx) (sel : Byte) (imm : Word) :
    fieldImm (packHost op d s t sel imm) = imm := by
  unfold fieldImm packHost
  ext i hi
  simp only [BitVec.getElem_extractLsb', BitVec.getLsbD_append]
  rw [← BitVec.getLsbD_eq_getElem hi]
  repeat' split
  all_goals (first | omega | (congr 1; omega))

/-- A host word is the packing of its fields, if its reserved field is 0. -/
theorem packHost_fields (w : HostWord) (h : fieldZ w = 0#4) :
    packHost (fieldOp w) (fieldD w) (fieldS w) (fieldT w) (fieldSel w) (fieldImm w) = w := by
  have hz : ∀ i, i < 4 → w.getLsbD (40 + i) = false := by
    intro i hi
    have := congrArg (fun v => v.getLsbD i) h
    simpa [fieldZ, BitVec.getLsbD_extractLsb', hi] using this
  apply BitVec.eq_of_getLsbD_eq
  intro i hi
  unfold packHost fieldOp fieldD fieldS fieldT fieldSel fieldImm
  simp only [BitVec.getLsbD_append, BitVec.ofFin_toFin, BitVec.getLsbD_extractLsb']
  by_cases h1 : i < 32
  · simp [h1]
  · by_cases h2 : i - 32 < 8
    · simp [h1, h2]; congr 1; omega
    · by_cases h3 : i - 32 - 8 < 4
      · have := hz (i - 32 - 8) h3
        rw [show 40 + (i - 32 - 8) = i by omega] at this
        simp [h1, h2, h3, this]
      · by_cases h4 : i - 32 - 8 - 4 < 4
        · simp [h1, h2, h3, h4]; congr 1; omega
        · by_cases h5 : i - 32 - 8 - 4 - 4 < 4
          · simp [h1, h2, h3, h4, h5]; congr 1; omega
          · by_cases h6 : i - 32 - 8 - 4 - 4 - 4 < 4
            · simp [h1, h2, h3, h4, h5, h6]; congr 1; omega
            · have h7 : i - 32 - 8 - 4 - 4 - 4 - 4 < 8 := by omega
              simp [h1, h2, h3, h4, h5, h6, h7]; congr 1; omega

/-! ### Opcodes -/

@[simp] theorem hostOp_byte (o : HostOp) : hostOp o.byte = some o := by cases o <;> rfl

theorem hostOp_some {b : Byte} {o : HostOp} (h : hostOp b = some o) : o.byte = b := by
  simpa using List.find?_some h

/-- A packed word decodes to the instruction its opcode and fields spell, if the unused ones are 0. -/
theorem decodeHost_packHost (o : HostOp) (d s t : VarIx) (sel : Byte) (imm : Word)
    (hu : unusedZero o.uses (packHost o.byte d s t sel imm) = true)
    (hw : (o.build d s t sel imm).wellFormed = true) :
    decodeHost (packHost o.byte d s t sel imm) = .ok (o.build d s t sel imm) := by
  simp [decodeHost, HostOp.read, hu, hw]

/-- What a host word decodes to: its opcode is listed, its unused fields are 0, and its fields spell the
instruction. -/
theorem decodeHost_eq_ok {w : HostWord} {i : Instr} (h : decodeHost w = .ok i) :
    ∃ o : HostOp, fieldOp w = o.byte ∧ unusedZero o.uses w = true ∧ i = o.read w ∧ i.wellFormed = true := by
  unfold decodeHost at h
  split at h
  · cases h
  · rename_i o ho
    split at h
    · rename_i hc
      cases h
      rw [Bool.and_eq_true] at hc
      exact ⟨o, (hostOp_some ho).symm, hc.1, rfl, hc.2⟩
    · cases h

/-! ### The register map -/

/-- A register is found at its own offset (R11: the offsets of one window are distinct). -/
theorem Params.registerAt_self {P : Params} (h : P.wf = true) (r : RegName) : P.registerAt r.window (P.offset r) = some r := by
  unfold Params.wf at h
  rw [Bool.and_eq_true, Bool.and_eq_true, Bool.and_eq_true, Bool.and_eq_true, Bool.and_eq_true, Bool.and_eq_true] at h
  have h1 := of_decide_eq_true h.1.1.1.1.1.1
  have h2 := of_decide_eq_true h.1.1.1.1.1.2
  clear h
  simp only [List.pairwise_cons, List.mem_cons, Params.offset, List.not_mem_nil, or_false,
     forall_eq_or_imp, forall_eq] at h1 h2
  obtain ⟨⟨a1,a2,a3,a4,a5,a6,a7⟩,⟨b2,b3,b4,b5,b6,b7⟩,⟨c3,c4,c5,c6,c7⟩,⟨d4,d5,d6,d7⟩,⟨e5,e6,e7⟩,⟨f6,f7⟩,g7,-⟩ := h1
  obtain ⟨⟨i1,i2⟩,j2,-⟩ := h2
  cases r <;> simp_all [Params.registerAt, RegName.all, RegName.window, Params.offset, List.find?]

/-- What is found at an offset is there. -/
theorem Params.registerAt_some {P : Params} {w : Window} {off : Nat} {r : RegName} (h : P.registerAt w off = some r) :
   r.window = w ∧ P.offset r = off := by
  simpa using List.find?_some h

/-- R104 refuses a value with X3 and the value alone. -/
theorem decodeCmd_error {P : Params} {v : Word} {e : Rejection} (h : decodeCmd P v = .error e) :
    e = (.unadmittedWriteValue, .value v) := by
  unfold decodeCmd at h
  repeat' split at h
  all_goals cases h
  all_goals rfl

/-- A `WRV` decodes as R101 does where R246's two texts agree, or the parameter follows its pseudocode. -/
theorem decodeVarWrite_eq {P : Params} {r : RegName} {v : Word}
    (h : P.wrvStartForm = true ∨ r ≠ .dataCmd ∨ v.toNat ≤ 0xFF ∨ v = 0x100#32) :
    decodeVarWrite P r v = decodeWrite P r v := by
  unfold decodeVarWrite
  rw [if_neg]
  rintro ⟨h1, h2, h3, h4⟩
  rcases h with h | h | h | h
  · simp [h1] at h
  · exact h h2
  · omega
  · exact h4 h

/-- R246's corner case. -/
theorem decodeVarWrite_refused {P : Params} {v : Word} (h1 : P.wrvStartForm = false) (h2 : 0xFF < v.toNat)
    (h3 : v ≠ 0x100#32) : decodeVarWrite P .dataCmd v = .error (.unadmittedWriteValue, .value v) := by
  simp [decodeVarWrite, h1, h2, h3]

/-- What R101 refuses, a `WRV` is refused with the same information. -/
theorem decodeVarWrite_error {P : Params} {r : RegName} {v : Word} {e : Rejection} (h : decodeWrite P r v = .error e) :
    decodeVarWrite P r v = .error e := by
  unfold decodeVarWrite
  split
  · rename_i hc
    obtain ⟨-, rfl, -, -⟩ := hc
    rw [decodeCmd_error h]
  · exact h

end Sys2Proof
end

