-- ==== Sys2Proof/Laws/State.lean ====
section
/-! SUPPORT. One lemma per part of the state per named update (10_state.md R30's parts), so that no proof unfolds an update to
read a part it leaves alone. -/

namespace Sys2Proof.Machine

/-! ### `State.raise` -/

@[simp] theorem State.raise_cfg (s : State) (c : FaultCode) (i : Info) : (s.raise c i).cfg = s.cfg := rfl
@[simp] theorem State.raise_prog (s : State) (c : FaultCode) (i : Info) : (s.raise c i).prog = s.prog := rfl
@[simp] theorem State.raise_ctl (s : State) (c : FaultCode) (i : Info) : (s.raise c i).ctl = s.ctl := rfl
@[simp] theorem State.raise_sys (s : State) (c : FaultCode) (i : Info) : (s.raise c i).sys = s.sys := rfl
@[simp] theorem State.raise_host (s : State) (c : FaultCode) (i : Info) : (s.raise c i).host = s.host := rfl
@[simp] theorem State.raise_env (s : State) (c : FaultCode) (i : Info) : (s.raise c i).env = s.env := rfl

/-! ### `State.refuse` -/

@[simp] theorem State.refuse_cfg (s : State) (c : RefusalCode) (i : Info) : (s.refuse c i).cfg = s.cfg := rfl
@[simp] theorem State.refuse_prog (s : State) (c : RefusalCode) (i : Info) : (s.refuse c i).prog = s.prog := rfl
@[simp] theorem State.refuse_ctl (s : State) (c : RefusalCode) (i : Info) : (s.refuse c i).ctl = s.ctl := rfl
@[simp] theorem State.refuse_sys (s : State) (c : RefusalCode) (i : Info) : (s.refuse c i).sys = s.sys := rfl
@[simp] theorem State.refuse_host (s : State) (c : RefusalCode) (i : Info) : (s.refuse c i).host = s.host := rfl
@[simp] theorem State.refuse_env (s : State) (c : RefusalCode) (i : Info) : (s.refuse c i).env = s.env := rfl

/-! ### `State.advance` -/

@[simp] theorem State.advance_cfg (s : State) : (s.advance).cfg = s.cfg := rfl
@[simp] theorem State.advance_prog (s : State) : (s.advance).prog = s.prog := rfl
@[simp] theorem State.advance_ctl (s : State) : (s.advance).ctl = s.ctl := rfl
@[simp] theorem State.advance_sys (s : State) : (s.advance).sys = s.sys := rfl
@[simp] theorem State.advance_out (s : State) : (s.advance).out = s.out := rfl
@[simp] theorem State.advance_env (s : State) : (s.advance).env = s.env := rfl

/-! ### `State.setVar` -/

@[simp] theorem State.setVar_cfg (s : State) (i : VarIx) (v : Word) : (s.setVar i v).cfg = s.cfg := rfl
@[simp] theorem State.setVar_prog (s : State) (i : VarIx) (v : Word) : (s.setVar i v).prog = s.prog := rfl
@[simp] theorem State.setVar_ctl (s : State) (i : VarIx) (v : Word) : (s.setVar i v).ctl = s.ctl := rfl
@[simp] theorem State.setVar_sys (s : State) (i : VarIx) (v : Word) : (s.setVar i v).sys = s.sys := rfl
@[simp] theorem State.setVar_out (s : State) (i : VarIx) (v : Word) : (s.setVar i v).out = s.out := rfl
@[simp] theorem State.setVar_env (s : State) (i : VarIx) (v : Word) : (s.setVar i v).env = s.env := rfl

/-! ### `State.logBus` -/

@[simp] theorem State.logBus_cfg (s : State) (e : BusEvent) : (s.logBus e).cfg = s.cfg := rfl
@[simp] theorem State.logBus_prog (s : State) (e : BusEvent) : (s.logBus e).prog = s.prog := rfl
@[simp] theorem State.logBus_sys (s : State) (e : BusEvent) : (s.logBus e).sys = s.sys := rfl
@[simp] theorem State.logBus_host (s : State) (e : BusEvent) : (s.logBus e).host = s.host := rfl
@[simp] theorem State.logBus_out (s : State) (e : BusEvent) : (s.logBus e).out = s.out := rfl
@[simp] theorem State.logBus_env (s : State) (e : BusEvent) : (s.logBus e).env = s.env := rfl

/-! ### `State.popCmd` -/

@[simp] theorem State.popCmd_cfg (s : State) : (s.popCmd).cfg = s.cfg := rfl
@[simp] theorem State.popCmd_prog (s : State) : (s.popCmd).prog = s.prog := rfl
@[simp] theorem State.popCmd_sys (s : State) : (s.popCmd).sys = s.sys := rfl
@[simp] theorem State.popCmd_host (s : State) : (s.popCmd).host = s.host := rfl
@[simp] theorem State.popCmd_out (s : State) : (s.popCmd).out = s.out := rfl
@[simp] theorem State.popCmd_env (s : State) : (s.popCmd).env = s.env := rfl

/-! ### `State.nack` -/

@[simp] theorem State.nack_cfg (s : State) : (s.nack).cfg = s.cfg := rfl
@[simp] theorem State.nack_prog (s : State) : (s.nack).prog = s.prog := rfl
@[simp] theorem State.nack_sys (s : State) : (s.nack).sys = s.sys := rfl
@[simp] theorem State.nack_host (s : State) : (s.nack).host = s.host := rfl
@[simp] theorem State.nack_out (s : State) : (s.nack).out = s.out := rfl
@[simp] theorem State.nack_env (s : State) : (s.nack).env = s.env := rfl

/-! ### `State.enableSync` -/

@[simp] theorem State.enableSync_cfg (s : State) : (s.enableSync).cfg = s.cfg := rfl
@[simp] theorem State.enableSync_prog (s : State) : (s.enableSync).prog = s.prog := rfl
@[simp] theorem State.enableSync_sys (s : State) : (s.enableSync).sys = s.sys := rfl
@[simp] theorem State.enableSync_host (s : State) : (s.enableSync).host = s.host := rfl
@[simp] theorem State.enableSync_out (s : State) : (s.enableSync).out = s.out := rfl
@[simp] theorem State.enableSync_env (s : State) : (s.enableSync).env = s.env := rfl

/-! ### `State.stopBus` -/

@[simp] theorem State.stopBus_cfg (s : State) : (s.stopBus).cfg = s.cfg := rfl
@[simp] theorem State.stopBus_prog (s : State) : (s.stopBus).prog = s.prog := rfl
@[simp] theorem State.stopBus_sys (s : State) : (s.stopBus).sys = s.sys := rfl
@[simp] theorem State.stopBus_host (s : State) : (s.stopBus).host = s.host := rfl
@[simp] theorem State.stopBus_out (s : State) : (s.stopBus).out = s.out := rfl
@[simp] theorem State.stopBus_env (s : State) : (s.stopBus).env = s.env := rfl

@[simp] theorem State.raise_fault (s : State) (c : FaultCode) (i : Info) :
    (s.raise c i).out.fault = s.out.fault.or (some (c, i)) := rfl
@[simp] theorem State.raise_refused (s : State) (c : FaultCode) (i : Info) : (s.raise c i).out.refused = s.out.refused := rfl
@[simp] theorem State.refuse_fault (s : State) (c : RefusalCode) (i : Info) : (s.refuse c i).out.fault = s.out.fault := rfl
@[simp] theorem State.refuse_refused (s : State) (c : RefusalCode) (i : Info) :
    (s.refuse c i).out.refused = s.out.refused.or (some (c, i)) := rfl

@[simp] theorem State.advance_pc (s : State) : s.advance.host.pc = s.host.pc + 1 := rfl
@[simp] theorem State.advance_vars (s : State) : s.advance.host.vars = s.host.vars := rfl
@[simp] theorem State.advance_halted (s : State) : s.advance.host.halted = s.host.halted := rfl
@[simp] theorem State.advance_inTxn (s : State) : s.advance.host.inTxn = s.host.inTxn := rfl

@[simp] theorem State.setVar_pc (s : State) (i : VarIx) (v : Word) : (s.setVar i v).host.pc = s.host.pc := rfl
@[simp] theorem State.setVar_halted (s : State) (i : VarIx) (v : Word) : (s.setVar i v).host.halted = s.host.halted := rfl
@[simp] theorem State.setVar_inTxn (s : State) (i : VarIx) (v : Word) : (s.setVar i v).host.inTxn = s.host.inTxn := rfl
@[simp] theorem State.setVar_vars (s : State) (i : VarIx) (v : Word) :
    (s.setVar i v).host.vars = s.host.vars.set i (.written v) := rfl

/-- A variable written reads as the value written. -/
theorem State.setVar_same (s : State) (i : VarIx) (v : Word) : (s.setVar i v).host.vars[i] = .written v := by
  simp

/-- A variable written leaves every other one alone. -/
theorem State.setVar_other (s : State) (i j : VarIx) (v : Word) (h : i ≠ j) :
    (s.setVar i v).host.vars[j] = s.host.vars[j] := by
  have : (i : Nat) ≠ j := fun e => h (Fin.ext e)
  simp [this]

@[simp] theorem State.logBus_busLog (s : State) (e : BusEvent) : (s.logBus e).ctl.busLog = s.ctl.busLog ++ [e] := rfl
@[simp] theorem State.logBus_cmdFifo (s : State) (e : BusEvent) : (s.logBus e).ctl.cmdFifo = s.ctl.cmdFifo := rfl
@[simp] theorem State.logBus_rxFifo (s : State) (e : BusEvent) : (s.logBus e).ctl.rxFifo = s.ctl.rxFifo := rfl
@[simp] theorem State.logBus_phase (s : State) (e : BusEvent) : (s.logBus e).ctl.phase = s.ctl.phase := rfl
@[simp] theorem State.popCmd_cmdFifo (s : State) : s.popCmd.ctl.cmdFifo = s.ctl.cmdFifo.tail := rfl
@[simp] theorem State.popCmd_busLog (s : State) : s.popCmd.ctl.busLog = s.ctl.busLog := rfl
@[simp] theorem State.popCmd_phase (s : State) : s.popCmd.ctl.phase = s.ctl.phase := rfl
@[simp] theorem State.popCmd_rxFifo (s : State) : s.popCmd.ctl.rxFifo = s.ctl.rxFifo := rfl
@[simp] theorem State.nack_busLog (s : State) : s.nack.ctl.busLog = s.ctl.busLog ++ [.stop] := rfl
@[simp] theorem State.nack_phase (s : State) : s.nack.ctl.phase = .idle := rfl
@[simp] theorem State.nack_cmdFifo (s : State) : s.nack.ctl.cmdFifo = [] := rfl
@[simp] theorem State.nack_abortLatch (s : State) : s.nack.ctl.abortLatch = true := rfl

/-! ### `State.takeTurn` and `State.draw` change only the model's own inputs -/

@[simp] theorem State.takeTurn_cfg (s : State) : s.takeTurn.cfg = s.cfg := by
  unfold State.takeTurn
  split <;> rfl
@[simp] theorem State.takeTurn_prog (s : State) : s.takeTurn.prog = s.prog := by
  unfold State.takeTurn
  split <;> rfl
@[simp] theorem State.takeTurn_ctl (s : State) : s.takeTurn.ctl = s.ctl := by
  unfold State.takeTurn
  split <;> rfl
@[simp] theorem State.takeTurn_sys (s : State) : s.takeTurn.sys = s.sys := by
  unfold State.takeTurn
  split <;> rfl
@[simp] theorem State.takeTurn_host (s : State) : s.takeTurn.host = s.host := by
  unfold State.takeTurn
  split <;> rfl
@[simp] theorem State.takeTurn_out (s : State) : s.takeTurn.out = s.out := by
  unfold State.takeTurn
  split <;> rfl
@[simp] theorem State.draw_cfg (s : State) (n : Nat) : (s.draw n).2.cfg = s.cfg := rfl
@[simp] theorem State.draw_prog (s : State) (n : Nat) : (s.draw n).2.prog = s.prog := rfl
@[simp] theorem State.draw_ctl (s : State) (n : Nat) : (s.draw n).2.ctl = s.ctl := rfl
@[simp] theorem State.draw_sys (s : State) (n : Nat) : (s.draw n).2.sys = s.sys := rfl
@[simp] theorem State.draw_host (s : State) (n : Nat) : (s.draw n).2.host = s.host := rfl
@[simp] theorem State.draw_out (s : State) (n : Nat) : (s.draw n).2.out = s.out := rfl

@[simp] theorem State.takeTurn_accesses (s : State) : s.takeTurn.env.accesses = s.env.accesses := by
  unfold State.takeTurn
  split <;> rfl

end Sys2Proof.Machine
end

