-- ==== Sys2Proof/Laws/Ops.lean ====
section
/-! SUPPORT. What each shared operation can do, said once: provers cite these and need not unfold the operations. -/

namespace Sys2Proof.Machine

@[simp] theorem Access.bind_ok {α β : Type} (a : α) (f : α → Access β) : (Access.ok a).bind f = f a := rfl
@[simp] theorem Access.bind_fault {α β : Type} (c : FaultCode) (i : Info) (f : α → Access β) :
    (Access.fault c i).bind f = .fault c i := rfl
@[simp] theorem Access.bind_refuse {α β : Type} (c : RefusalCode) (i : Info) (f : α → Access β) :
    (Access.refuse c i).bind f = .refuse c i := rfl
@[simp] theorem Access.map_ok {α β : Type} (a : α) (f : α → β) : (Access.ok a).map f = .ok (f a) := rfl
@[simp] theorem Access.map_fault {α β : Type} (c : FaultCode) (i : Info) (f : α → β) :
    (Access.fault c i).map f = .fault c i := rfl
@[simp] theorem Access.map_refuse {α β : Type} (c : RefusalCode) (i : Info) (f : α → β) :
    (Access.refuse c i).map f = .refuse c i := rfl
@[simp] theorem Access.ofDecode_ok {α : Type} (a : α) : Access.ofDecode (.ok a : Except Rejection α) = .ok a := rfl
@[simp] theorem Access.ofDecode_error {α : Type} (r : Rejection) :
    Access.ofDecode (.error r : Except Rejection α) = .refuse r.1 r.2 := rfl

/-- A sequence succeeds only if both parts do. -/
theorem Access.bind_eq_ok {α β : Type} {x : Access α} {f : α → Access β} {b : β} (h : x.bind f = .ok b) :
    ∃ a, x = .ok a ∧ f a = .ok b := by
  cases x with
  | ok a => exact ⟨a, rfl, h⟩
  | fault c i => cases h
  | refuse c i => cases h

/-- A mapped operation succeeds only if the operation does. -/
theorem Access.map_eq_ok {α β : Type} {x : Access α} {f : α → β} {b : β} (h : x.map f = .ok b) :
    ∃ a, x = .ok a ∧ f a = b := by
  cases x with
  | ok a => exact ⟨a, rfl, by simpa using h⟩
  | fault c i => cases h
  | refuse c i => cases h

@[simp] theorem State.settle_ok (s t : State) : s.settle (.ok t) = t := rfl
@[simp] theorem State.settle_fault (s : State) (c : FaultCode) (i : Info) : s.settle (.fault c i) = s.raise c i := rfl
@[simp] theorem State.settle_refuse (s : State) (c : RefusalCode) (i : Info) : s.settle (.refuse c i) = s.refuse c i := rfl

/-- Where an operation ends: its own state, or the old one with something recorded. -/
theorem State.settle_cases (s : State) (x : Access State) :
    (∃ t, x = .ok t ∧ s.settle x = t) ∨ (∃ c i, x = .fault c i ∧ s.settle x = s.raise c i)
      ∨ (∃ c i, x = .refuse c i ∧ s.settle x = s.refuse c i) := by
  cases x with
  | ok t => exact .inl ⟨t, rfl, rfl⟩
  | fault c i => exact .inr (.inl ⟨c, i, rfl, rfl⟩)
  | refuse c i => exact .inr (.inr ⟨c, i, rfl, rfl⟩)

/-- An instruction's answer is the next state `settle` gives. -/
theorem finish_next {s t : State} {x : Access State} (h : finish s x = .next t) : t = s.settle x := by
  cases h
  rfl

/-! ### Operands -/

theorem State.readVar_written {s : State} {i : VarIx} {v : Word} (h : s.host.vars[i] = .written v) :
    s.readVar i = .ok v := by
  unfold State.readVar
  rw [h]

theorem State.readVar_unwritten {s : State} {i : VarIx} (h : s.host.vars[i] = .unwritten) :
    s.readVar i = .fault .hostUnwrittenVar (.var i) := by
  unfold State.readVar
  rw [h]

theorem State.readVar_eq_ok {s : State} {i : VarIx} {v : Word} (h : s.readVar i = .ok v) :
    s.host.vars[i] = .written v := by
  cases hx : s.host.vars[i] with
  | unwritten => rw [State.readVar_unwritten hx] at h; cases h
  | written w => rw [State.readVar_written hx] at h; cases h; rfl

theorem State.readVars_written {s : State} {vs vt : VarIx} {a b : Word} (hs : s.host.vars[vs] = .written a)
    (ht : s.host.vars[vt] = .written b) : s.readVars vs vt = .ok (a, b) := by
  simp [State.readVars, State.readVar_written hs, State.readVar_written ht]

theorem readSelector_some {sel : Byte} {r : RegName} (h : selectorRegister sel = some r) : readSelector sel = .ok r := by
  simp [readSelector, h]

theorem readSelector_none {sel : Byte} (h : selectorRegister sel = none) :
    readSelector sel = .refuse .unmappedRegister (.selector sel) := by
  simp [readSelector, h]

/-! ### Controller operations -/

/-- A push that succeeds appends one entry, on an enabled controller whose FIFO is not full. -/
theorem State.pushCmd_eq_ok {s t : State} {e : CmdEntry} (h : s.pushCmd e = .ok t) :
    s.ctl.enStatus = true ∧ s.ctl.cmdFifo.length ≠ s.cfg.txDepth
      ∧ t = { s with ctl := { s.ctl with cmdFifo := s.ctl.cmdFifo ++ [e] } } := by
  unfold State.pushCmd at h
  split at h
  · cases h
  · split at h
    · cases h
    · exact ⟨by simp_all, by assumption, by cases h; rfl⟩

/-- A configuration write that succeeds is made while not locked. -/
theorem State.writeConfig_eq_ok {s t : State} {r : RegName} {c : Controller} (h : s.writeConfig r c = .ok t) :
    s.cfgLocked = false ∧ t = { s with ctl := c } := by
  unfold State.writeConfig at h
  split at h
  · cases h
  · exact ⟨by simp_all, by cases h; rfl⟩

/-- The controller after an admitted write: only what a host write may change is changed. -/
theorem applyWrite_frame {f : WriteForm} {s t : State} (h : applyWrite f s = .ok t) :
    t.cfg = s.cfg ∧ t.prog = s.prog ∧ t.host = s.host ∧ t.out = s.out ∧ t.env = s.env
      ∧ t.ctl.enStatus = s.ctl.enStatus ∧ t.ctl.rxFifo = s.ctl.rxFifo ∧ t.ctl.phase = s.ctl.phase
      ∧ t.ctl.abortLatch = s.ctl.abortLatch ∧ t.ctl.busLog = s.ctl.busLog
      ∧ (t.ctl.cmdFifo = s.ctl.cmdFifo ∨ (s.ctl.enStatus = true ∧ s.ctl.cmdFifo.length ≠ s.cfg.txDepth
          ∧ ∃ e, t.ctl.cmdFifo = s.ctl.cmdFifo ++ [e])) := by
  cases f
  case con | tar | fsHcnt | fsLcnt =>
    obtain ⟨-, rfl⟩ := State.writeConfig_eq_ok h
    simp
  case start | data | read =>
    obtain ⟨h1, h2, rfl⟩ := State.pushCmd_eq_ok h
    simp [h1, h2]
  case enableOn =>
    simp only [applyWrite, writeEnableOn] at h
    split at h
    · cases h
    · cases h
      simp
  case enableOff | usefpga | gpioA | gpioB => cases h; simp

/-- A read changes nothing but the count of free values and, for `DATA_CMD`, the head of the RX FIFO. -/
theorem applyRead_frame {f : ReadForm} {s : State} {x : Word × State} (h : applyRead f s = .ok x) :
    ∃ k rx, x.2 = { s with env := { s.env with draws := k }, ctl := { s.ctl with rxFifo := rx } }
      ∧ (rx = s.ctl.rxFifo ∨ ∃ b, s.ctl.rxFifo = b :: rx) := by
  cases f with
  | enStatus => cases h; exact ⟨_, s.ctl.rxFifo, rfl, .inl rfl⟩
  | rxflr => cases h; exact ⟨s.env.draws, s.ctl.rxFifo, rfl, .inl rfl⟩
  | dataCmd =>
    simp only [applyRead, readDataCmd] at h
    split at h
    · cases h
    · rename_i b bs hb
      cases h
      exact ⟨_, bs, rfl, .inr ⟨b, hb⟩⟩

/-- A jump that succeeds lands inside the program. -/
theorem State.jumpTo_eq_ok {s t : State} {n : Nat} (h : s.jumpTo n = .ok t) :
    n < s.prog.length ∧ t = { s with host := { s.host with pc := n } } := by
  unfold State.jumpTo at h
  split at h
  · exact ⟨by assumption, by cases h; rfl⟩
  · cases h

/-! ### The engine -/

/-- Asking for an acknowledgement consumes at most one given answer; R184 fixes it where it applies, and without a given
answer it is the oracle's. -/
theorem State.askAck_spec (s : State) (a : Addr7) (p : AckPhase) :
    ∃ k acks, s.askAck a p = (k, { s with env := { s.env with acks := acks } }) ∧ (s.ackAssured a = true → k = true)
      ∧ (s.ackAssured a = false → s.env.acks = [] → k = Config.freeAck s.ctl.busLog p ∧ acks = []) := by
  unfold State.askAck
  split
  · exact ⟨true, s.env.acks, rfl, fun _ => rfl, by simp_all⟩
  · split
    · exact ⟨_, _, rfl, by simp_all, by simp_all⟩
    · exact ⟨_, s.env.acks, rfl, by simp_all, by simp_all⟩

/-- Asking for a byte consumes at most one given answer, and without one it is the oracle's. -/
theorem State.askByte_spec (s : State) :
    ∃ b bs, s.askByte = (b, { s with env := { s.env with rxBytes := bs } })
      ∧ (s.env.rxBytes = [] → b = Config.freeByte s.ctl.busLog) := by
  unfold State.askByte
  split
  · exact ⟨_, _, rfl, by simp_all⟩
  · exact ⟨_, s.env.rxBytes, rfl, fun _ => rfl⟩

/-- The configuration test: F5, or the entry is taken with the address `tar` holds. -/
theorem State.configured_spec (s : State) (k : Addr7 → State) :
    (∃ r, s.configured k = s.raise .engineUnconfigured (.reg r)) ∨
      ∃ a, s.cfgReady = true ∧ s.ctl.tar = .written a ∧ s.configured k = k a := by
  unfold State.configured
  split
  · exact .inl ⟨_, rfl⟩
  · exact .inr ⟨_, by simp_all [State.cfgReady], by assumption, rfl⟩
  · exact .inl ⟨_, rfl⟩

theorem State.configured_ready {s : State} {k : Addr7 → State} {a : Addr7} (h : s.cfgReady = true)
    (ha : s.ctl.tar = .written a) : s.configured k = k a := by
  have hm : s.cfgMissing = none := by simpa [State.cfgReady] using h
  unfold State.configured
  rw [hm, ha]

theorem State.configured_missing {s : State} {k : Addr7 → State} {r : RegName} (h : s.cfgMissing = some r) :
    s.configured k = s.raise .engineUnconfigured (.reg r) := by
  unfold State.configured
  rw [h]

end Sys2Proof.Machine
end

