-- ==== Sys2Proof/Laws/Engine.lean ====
section
/-! SUPPORT. What each part of taking a command entry can do, said once (41_bus_engine.md R173 to R179). -/

namespace Sys2Proof.Machine

/-- R184 reads only the parameters and the routing registers. -/
theorem State.ackAssured_of_same {s t : State} (h : t.cfg = s.cfg) (h2 : t.sys = s.sys) (a : Addr7) :
    t.ackAssured a = s.ackAssured a := by
  simp [State.ackAssured, State.muxRouted, h, h2]

/-- A byte sent: one `Tx` event, then the phase or the abort its answer leads to. -/
theorem State.sendByte_spec (s : State) (a : Addr7) (d : Byte) :
    ∃ k acks, (s.ackAssured a = true → k = true) ∧
    (s.ackAssured a = false → s.env.acks = [] → k = Config.freeAck s.ctl.busLog (.data d)) ∧
    s.sendByte a d = { s with
      ctl := { s.ctl with
        cmdFifo := if k then s.ctl.cmdFifo else []
        phase := if k then .write else .idle
        abortLatch := if k then s.ctl.abortLatch else true
        busLog := s.ctl.busLog ++ [.tx d k] ++ (if k then [] else [.stop]) }
      env := { s.env with acks := acks } } := by
  obtain ⟨k, acks, h, hk, hf⟩ := s.askAck_spec a (.data d)
  refine ⟨k, acks, hk, fun a b => (hf a b).1, ?_⟩
  unfold State.sendByte
  rw [h]
  cases k <;> simp [State.nack, State.logBus]

/-- A byte received: one `Rx` event and one byte at the tail of the RX FIFO. -/
theorem State.receiveByte_spec (s : State) :
    ∃ b bs, (s.env.rxBytes = [] → b = Config.freeByte s.ctl.busLog) ∧ s.receiveByte = { s with
      ctl := { s.ctl with rxFifo := s.ctl.rxFifo ++ [b], phase := .read, busLog := s.ctl.busLog ++ [.rx b] }
      env := { s.env with rxBytes := bs } } := by
  obtain ⟨b, bs, h, hb⟩ := s.askByte_spec
  refine ⟨b, bs, hb, ?_⟩
  unfold State.receiveByte
  rw [h]; rfl

/-- An address phase: one `Start` or `Restart` event, then what follows or the abort. -/
theorem State.addressed_spec (s : State) (a : Addr7) (dir : BusDir) (k : State → State) :
    ∃ ack acks, (s.ackAssured a = true → ack = true) ∧
    (s.ackAssured a = false → s.env.acks = [] → ack = Config.freeAck s.ctl.busLog (.addr a dir) ∧ acks = []) ∧
    s.addressed a dir k =
      let t := { s with
        ctl := { s.ctl with
          busLog := s.ctl.busLog ++ [if s.ctl.phase = .idle then .start a dir ack else .restart a dir ack] }
        env := { s.env with acks := acks } }
      if ack then k t else t.nack := by
  obtain ⟨ack, acks, h, hk, hf⟩ := s.askAck_spec a (.addr a dir)
  refine ⟨ack, acks, hk, hf, ?_⟩
  unfold State.addressed State.addressPhase
  rw [h]; rfl

/-- R177. -/
theorem State.nack_eq (s : State) :
    s.nack = { s with ctl := { s.ctl with
      busLog := s.ctl.busLog ++ [.stop], phase := .idle, cmdFifo := [], abortLatch := true } } := rfl

/-- Where `cfgReady` fails some register is missing. -/
theorem State.cfgMissing_of_not_ready {s : State} (hr : s.cfgReady = false) : ∃ r, s.cfgMissing = some r := by
  have : s.cfgMissing ≠ none := by intro hc; simp [State.cfgReady, hc] at hr
  exact Option.ne_none_iff_exists'.1 this

/-- Where `cfgReady` holds an address is written. -/
theorem State.tar_of_ready {s : State} (hr : s.cfgReady = true) : ∃ a, s.ctl.tar = .written a := by
  have hm : s.cfgMissing = none := by simpa [State.cfgReady] using hr
  cases ht : s.ctl.tar with
  | written a => exact ⟨a, rfl⟩
  | unwritten => unfold State.cfgMissing at hm; simp [ht] at hm; split at hm <;> cases hm

/-- A register reported missing is missing, or holds another control value. -/
theorem State.cfgMissing_eq_some {s : State} {r} (h : s.cfgMissing = some r) :
    (r = .con ∧ s.ctl.con ≠ .written s.cfg.conValue ∨ r = .tar ∧ s.ctl.tar = .unwritten
      ∨ r = .fsHcnt ∧ s.ctl.hcnt = .unwritten ∨ r = .fsLcnt ∧ s.ctl.lcnt = .unwritten) := by
  unfold State.cfgMissing at h
  split at h
  · cases h; simp_all
  split at h
  · cases h; simp_all
  split at h
  · cases h; simp_all
  split at h
  · cases h; simp_all
  · cases h

end Sys2Proof.Machine
end

