-- ==== Sys2Proof/Laws/Exec.lean ====
section
/-! SUPPORT. What an instruction can do, said once: its frame where it succeeds, and nothing but the outcome record where it
stops. -/

namespace Sys2Proof.Machine

/-- What a host step may do to the controller and the routing registers. -/
structure ControllerFrame (s t : State) : Prop where
  en : t.ctl.enStatus = s.ctl.enStatus
  ph : t.ctl.phase = s.ctl.phase
  ab : t.ctl.abortLatch = s.ctl.abortLatch
  log : t.ctl.busLog = s.ctl.busLog
  cmd : t.ctl.cmdFifo = s.ctl.cmdFifo ∨
    (s.ctl.enStatus = true ∧ s.ctl.cmdFifo.length ≠ s.cfg.txDepth ∧ ∃ e, t.ctl.cmdFifo = s.ctl.cmdFifo ++ [e])
  rx : t.ctl.rxFifo = s.ctl.rxFifo ∨ ∃ b, s.ctl.rxFifo = b :: t.ctl.rxFifo
  cfg : s.cfgLocked = true →
    t.ctl.con = s.ctl.con ∧ t.ctl.tar = s.ctl.tar ∧ t.ctl.hcnt = s.ctl.hcnt ∧ t.ctl.lcnt = s.ctl.lcnt
  adm : s.RegsAdmitted → t.RegsAdmitted

/-- What an instruction that does not stop leaves alone. -/
structure InstrFrame (i : Instr) (s t : State) : Prop where
  cfg : t.cfg = s.cfg
  prog : t.prog = s.prog
  out : t.out = s.out
  ctl : ControllerFrame s t
  var : ∀ j, destVar i ≠ some j → t.host.vars[j] = s.host.vars[j]
  nowin : reachesWindow i = false → t.ctl = s.ctl ∧ t.sys = s.sys ∧ t.env = s.env
  env : t.env.accesses = s.env.accesses ∧
    t.env.sched = s.env.sched ∧ t.env.acks = s.env.acks ∧ t.env.rxBytes = s.env.rxBytes
  bus : i.isBus = true → t.host = s.host
  pc : i.isBus = false → (∀ l, i ≠ .jmp l) → (∀ a b l, i ≠ .beq a b l) → (∀ a b l, i ≠ .bne a b l) →
      (∀ a b l, i ≠ .bltu a b l) → i ≠ .halt → t.host.pc = s.host.pc + 1
  halted : i ≠ .halt → t.host.halted = s.host.halted
  inTxn : i ≠ .txb → i ≠ .txe → t.host.inTxn = s.host.inTxn

/-- `RegsAdmitted` reads only the control and routing registers and `CON_VALUE`. -/
theorem State.regsAdmitted_of_same {s t : State} (h : t.ctl.con = s.ctl.con) (h2 : t.sys = s.sys) (h3 : t.cfg = s.cfg) :
    s.RegsAdmitted → t.RegsAdmitted := by
  simp only [State.RegsAdmitted, h, h2, h3]; exact id

theorem ControllerFrame.of_same {s t : State} (h : t.ctl = s.ctl) (h2 : t.sys = s.sys) (h3 : t.cfg = s.cfg) :
    ControllerFrame s t :=
  ⟨by rw [h], by rw [h], by rw [h], by rw [h], .inl (by rw [h]), .inl (by rw [h]), fun _ => by simp [h],
    State.regsAdmitted_of_same (by rw [h]) h2 h3⟩

/-- An admitted write that succeeds keeps the frame. -/
theorem applyWrite_ctl {f : WriteForm} {s t : State} (h : applyWrite f s = .ok t) : ControllerFrame s t := by
  have fr := applyWrite_frame h
  refine ⟨fr.2.2.2.2.2.1, fr.2.2.2.2.2.2.2.1, fr.2.2.2.2.2.2.2.2.1, fr.2.2.2.2.2.2.2.2.2.1,
    fr.2.2.2.2.2.2.2.2.2.2, .inl fr.2.2.2.2.2.2.1, ?_, ?_⟩
  all_goals
    clear fr
    cases f
    case con | tar | fsHcnt | fsLcnt =>
      obtain ⟨h1, rfl⟩ := State.writeConfig_eq_ok h
      first
      | exact fun h => by simp [h1] at h
      | exact fun ⟨a,b,c,d⟩ => ⟨.inr rfl, b, c, d⟩
      | exact id
    case start | data | read =>
      obtain ⟨h1, h2, rfl⟩ := State.pushCmd_eq_ok h
      first | exact fun _ => ⟨rfl, rfl, rfl, rfl⟩ | exact id
    case enableOn =>
      simp only [applyWrite, writeEnableOn] at h
      split at h
      · cases h
      · cases h
        first | exact fun _ => ⟨rfl, rfl, rfl, rfl⟩ | exact id
    case enableOff | usefpga | gpioA | gpioB =>
      cases h
      first
       | exact fun _ => ⟨rfl, rfl, rfl, rfl⟩
       | exact id
       | exact fun ⟨a,b,c,d⟩ => ⟨a, .inr rfl, c, d⟩
       | exact fun ⟨a,b,c,d⟩ => ⟨a, b, .inr rfl, d⟩
       | exact fun ⟨a,b,c,d⟩ => ⟨a, b, c, .inr rfl⟩

/-- An admitted read that succeeds keeps the frame and everything but the RX FIFO and the count of free values. -/
theorem applyRead_ctl {f : ReadForm} {s : State} {x : Word × State} (h : applyRead f s = .ok x) :
    ControllerFrame s x.2 ∧ x.2.host = s.host ∧ x.2.sys = s.sys ∧ x.2.out = s.out ∧ x.2.cfg = s.cfg ∧ x.2.prog = s.prog
      ∧ x.2.env.accesses = s.env.accesses ∧ x.2.env.sched = s.env.sched 
      ∧ x.2.env.acks = s.env.acks ∧ x.2.env.rxBytes = s.env.rxBytes := by
  obtain ⟨k, rx, h1, h2⟩ := applyRead_frame h
  rw [h1]
  refine ⟨⟨rfl, rfl, rfl, rfl, .inl rfl, h2, fun _ => ⟨rfl, rfl, rfl, rfl⟩, id⟩, rfl, rfl, rfl, rfl, rfl, rfl, rfl, rfl,
    rfl⟩

theorem regWrite_ok {d} {s t : State} (h : regWrite d s = .ok t) : ∃ f, applyWrite f s = .ok t := by
  obtain ⟨f, -, hf⟩ := Access.bind_eq_ok h; exact ⟨f, hf⟩

theorem regRead_ok {r} {s : State} {x} (h : regRead r s = .ok x) : ∃ f, applyRead f s = .ok x := by
  obtain ⟨f, -, hf⟩ := Access.bind_eq_ok h; exact ⟨f, hf⟩

theorem frame_bus {i : Instr} {f : WriteForm} {s t : State} (h : applyWrite f s = .ok t) (hb : i.isBus = true)
    (hr : reachesWindow i = true) : InstrFrame i s t := by
  obtain ⟨f1, f2, f3, f4, f5, -⟩ := applyWrite_frame h
  constructor <;> simp [*, applyWrite_ctl h]

theorem frame_read {i : Instr} {f : ReadForm} {s : State} {x} (h : applyRead f s = .ok x) (hb : i.isBus = true)
    (hr : reachesWindow i = true) : InstrFrame i s (keepResult x) := by
  obtain ⟨c, f1, f2, f3, f4, f5, f6, f7, f8, f9⟩ := applyRead_ctl h
  constructor <;> simp [keepResult, *]
  exact ⟨c.en, c.ph, c.ab, c.log, c.cmd, c.rx, c.cfg,
    fun h => State.regsAdmitted_of_same (s := x.2) rfl f2.symm f4.symm (c.adm h)⟩

theorem frame_var {i : Instr} {s : State} {d v} (hb : i.isBus = false) (hd : destVar i = some d) :
    InstrFrame i s (s.setVar d v).advance := by
  constructor <;> simp [*, State.advance, State.setVar]
  · exact ControllerFrame.of_same rfl rfl rfl
  · intro j hj
    have : j.val ≠ d.val := fun e => hj (Fin.ext e.symm)
    exact Vector.getElem_set_ne _ _ (fun e => this e.symm)

/-- A state that differs in the host alone, its variables apart. -/
theorem frame_host {i : Instr} {s t : State} (hv : t.host.vars = s.host.vars) (hb : i.isBus = false)
    (h : t = { s with host := t.host })
    (pc : (∀ l, i ≠ .jmp l) → (∀ a b l, i ≠ .beq a b l) → (∀ a b l, i ≠ .bne a b l) →
      (∀ a b l, i ≠ .bltu a b l) → i ≠ .halt → t.host.pc = s.host.pc + 1)
    (hh : i ≠ .halt → t.host.halted = s.host.halted)
    (ht : i ≠ .txb → i ≠ .txe → t.host.inTxn = s.host.inTxn) : InstrFrame i s t := by
  have e1 : t.ctl = s.ctl := by rw [h]
  have e2 : t.sys = s.sys := by rw [h]
  have e3 : t.cfg = s.cfg := by rw [h]
  have e4 : t.env = s.env := by rw [h]
  have e5 : t.out = s.out := by rw [h]
  have e6 : t.prog = s.prog := by rw [h]
  exact ⟨e3, e6, e5, ControllerFrame.of_same e1 e2 e3, fun j _ => by simp [hv], fun _ => ⟨e1, e2, e4⟩,
    by simp [e4], by simp [hb], fun _ => pc, hh, ht⟩

theorem branch_ok {c vs vt l} {s t : State} (h : branch c vs vt l s = .ok t) :
    ∃ n, t = { s with host := { s.host with pc := n } } := by
  obtain ⟨ab, -, h⟩ := Access.bind_eq_ok h
  split at h
  · exact ⟨_, (State.jumpTo_eq_ok h).2⟩
  · cases h; exact ⟨_, rfl⟩

theorem hostWrite_ok {d sel v} {i : Instr} {s t : State} (h : hostWrite d sel v s = .ok t) (hb : i.isBus = false)
    (hr : reachesWindow i = true) : InstrFrame i s t := by
  obtain ⟨r, -, h⟩ := Access.bind_eq_ok h
  obtain ⟨w, -, h⟩ := Access.bind_eq_ok h
  obtain ⟨u, hu, rfl⟩ := Access.map_eq_ok h
  obtain ⟨f, hf⟩ := regWrite_ok hu
  obtain ⟨f1, f2, f3, f4, f5, -⟩ := applyWrite_frame hf
  have c := applyWrite_ctl hf
  constructor <;> simp [*, State.advance]
  exact ⟨c.en, c.ph, c.ab, c.log, c.cmd, c.rx, c.cfg,
    fun h => State.regsAdmitted_of_same (s := u) rfl rfl f1.symm (c.adm h)⟩

theorem hostRead_ok {sel vd} {i : Instr} {s t : State} (h : hostRead vd sel s = .ok t) (hb : i.isBus = false)
    (hr : reachesWindow i = true) (hd : destVar i = some vd) : InstrFrame i s t := by
  obtain ⟨r, -, h⟩ := Access.bind_eq_ok h
  obtain ⟨x, hx, rfl⟩ := Access.map_eq_ok h
  obtain ⟨f, hf⟩ := regRead_ok hx
  obtain ⟨c, f1, f2, f3, f4, f5, f6, f7, f8, f9⟩ := applyRead_ctl hf
  constructor <;> simp [*, State.advance, State.setVar]
  · exact ⟨c.en, c.ph, c.ab, c.log, c.cmd, c.rx, c.cfg,
    fun h => State.regsAdmitted_of_same (s := x.2) rfl f2.symm f4.symm (c.adm h)⟩
  · intro j hj
    have : j.val ≠ vd.val := fun e => hj (Fin.ext e.symm)
    exact Vector.getElem_set_ne _ _ (fun e => this e.symm)

/-- Every instruction is an operation settled at the state it starts in, framed where it succeeds. -/
theorem exec_cases (i : Instr) (s : State) : ∃ x, exec i s = finish s x ∧ ∀ t, x = .ok t → InstrFrame i s t := by
  cases i
  case wCon => exact ⟨_, rfl, fun t h => frame_bus (f := .con) h rfl rfl⟩
  case wTar a => exact ⟨_, rfl, fun t h => frame_bus (f := .tar a) h rfl rfl⟩
  case wFsHcnt a => exact ⟨_, rfl, fun t h => frame_bus (f := .fsHcnt a) h rfl rfl⟩
  case wFsLcnt a => exact ⟨_, rfl, fun t h => frame_bus (f := .fsLcnt a) h rfl rfl⟩
  case wEnableOn => exact ⟨_, rfl, fun t h => frame_bus (f := .enableOn) h rfl rfl⟩
  case wEnableOff => exact ⟨_, rfl, fun t h => frame_bus (f := .enableOff) h rfl rfl⟩
  case wDataCmdStart a => exact ⟨_, rfl, fun t h => frame_bus (f := .start a) h rfl rfl⟩
  case wDataCmdData a => exact ⟨_, rfl, fun t h => frame_bus (f := .data a) h rfl rfl⟩
  case wDataCmdRead => exact ⟨_, rfl, fun t h => frame_bus (f := .read) h rfl rfl⟩
  case rEnStatus => exact ⟨_, rfl, fun t h => by
    obtain ⟨x, hx, rfl⟩ := Access.map_eq_ok h; exact frame_read (f := .enStatus) hx rfl rfl⟩
  case rRxflr => exact ⟨_, rfl, fun t h => by
    obtain ⟨x, hx, rfl⟩ := Access.map_eq_ok h; exact frame_read (f := .rxflr) hx rfl rfl⟩
  case rDataCmd => exact ⟨_, rfl, fun t h => by
    obtain ⟨x, hx, rfl⟩ := Access.map_eq_ok h; exact frame_read (f := .dataCmd) hx rfl rfl⟩
  case wSysUsefpga => exact ⟨_, rfl, fun t h => frame_bus (f := .usefpga) h rfl rfl⟩
  case wSysGpioA => exact ⟨_, rfl, fun t h => frame_bus (f := .gpioA) h rfl rfl⟩
  case wSysGpioB => exact ⟨_, rfl, fun t h => frame_bus (f := .gpioB) h rfl rfl⟩
  case wri => exact ⟨_, rfl, fun t h => hostWrite_ok h rfl rfl⟩
  case wrv => exact ⟨_, rfl, fun t h => hostWrite_ok h rfl rfl⟩
  case rd => exact ⟨_, rfl, fun t h => hostRead_ok h rfl rfl rfl⟩
  case movi => exact ⟨_, rfl, fun t h => by cases h; exact frame_var rfl rfl⟩
  case addi | andi | ori => exact ⟨_, rfl, fun t h => by
    obtain ⟨x, hx, rfl⟩ := Access.map_eq_ok h; exact frame_var rfl rfl⟩
  case or | add => exact ⟨_, rfl, fun t h => by
    obtain ⟨x, hx, rfl⟩ := Access.map_eq_ok h; exact frame_var rfl rfl⟩
  case shli =>
    refine ⟨_, rfl, fun t h => ?_⟩
    split at h
    · obtain ⟨x, hx, rfl⟩ := Access.map_eq_ok h; exact frame_var rfl rfl
    · cases h
  case beq | bne | bltu =>
    refine ⟨_, rfl, fun t h => ?_⟩
    obtain ⟨n, rfl⟩ := branch_ok h
    exact frame_host rfl rfl rfl (by simp) (fun _ => rfl) (fun _ _ => rfl)
  case jmp =>
    refine ⟨_, rfl, fun t h => ?_⟩
    obtain ⟨-, rfl⟩ := State.jumpTo_eq_ok h
    exact frame_host rfl rfl rfl (by simp) (fun _ => rfl) (fun _ _ => rfl)
  case sleep => exact ⟨_, rfl, fun t h => by
    cases h; exact frame_host rfl rfl rfl (fun _ _ _ _ _ => rfl) (fun _ => rfl) (fun _ _ => rfl)⟩
  case txb | txe => exact ⟨_, rfl, fun t h => by
    cases h; exact frame_host rfl rfl rfl (fun _ _ _ _ _ => rfl) (fun _ => rfl) (by simp)⟩
  case halt => exact ⟨_, rfl, fun t h => by
    cases h; exact frame_host rfl rfl rfl (by simp) (by simp) (fun _ _ => rfl)⟩

/-- What an instruction can do: its own effect within its frame, or a recorded fault or refusal and nothing else. -/
theorem exec_next {i : Instr} {s t : State} (h : exec i s = .next t) :
    InstrFrame i s t ∨ (∃ c info, t = s.raise c info) ∨ (∃ c info, t = s.refuse c info) := by
  obtain ⟨x, hx, hf⟩ := exec_cases i s
  rw [hx] at h
  have := finish_next h
  subst this
  cases x with
  | ok u => exact .inl (hf u rfl)
  | fault c info => exact .inr (.inl ⟨c, info, rfl⟩)
  | refuse c info => exact .inr (.inr ⟨c, info, rfl⟩)

end Sys2Proof.Machine
end

