-- ==== Sys2Proof/Laws/PerInstr.lean ====
section
/-! SUPPORT. One statement per instruction, as syntax: its encoding carries the opcode of 30_encoding.md R112, or is a bus operation
(R100). -/

namespace Sys2Proof.Laws.OpcodeByte

/-- The opcode column of R112; a register access of its own has none. -/
def opcode : Instr → Option Byte
  | .wCon => none
  | .wTar _ => none
  | .wFsHcnt _ => none
  | .wFsLcnt _ => none
  | .wEnableOn => none
  | .wEnableOff => none
  | .wDataCmdStart _ => none
  | .wDataCmdData _ => none
  | .wDataCmdRead => none
  | .rEnStatus => none
  | .rRxflr => none
  | .rDataCmd => none
  | .wSysUsefpga => none
  | .wSysGpioA => none
  | .wSysGpioB => none
  | .wri _ _ => some 0x01#8
  | .wrv _ _ => some 0x02#8
  | .rd _ _ => some 0x03#8
  | .movi _ _ => some 0x10#8
  | .addi _ _ _ => some 0x11#8
  | .andi _ _ _ => some 0x12#8
  | .ori _ _ _ => some 0x13#8
  | .or _ _ _ => some 0x14#8
  | .shli _ _ _ => some 0x15#8
  | .add _ _ _ => some 0x16#8
  | .beq _ _ _ => some 0x20#8
  | .bne _ _ _ => some 0x21#8
  | .bltu _ _ _ => some 0x22#8
  | .jmp _ => some 0x23#8
  | .sleep _ => some 0x30#8
  | .txb => some 0x31#8
  | .txe => some 0x32#8
  | .halt => some 0x3F#8

/-- The opcode byte an encoding carries. -/
def codeOpcode : Code → Option Byte
  | .host w => some (fieldOp w)
  | .bus _ => none

/-- The encoding of an instruction carries its opcode, at any parameters. -/
def Statement (i : Instr) : Prop := ∀ P : Params, codeOpcode (encode P i) = opcode i

theorem wCon : Statement .wCon := fun _ => rfl

theorem wTar (a : Addr7) : Statement (.wTar a) := fun _ => rfl

theorem wFsHcnt (c : Count) : Statement (.wFsHcnt c) := fun _ => rfl

theorem wFsLcnt (c : Count) : Statement (.wFsLcnt c) := fun _ => rfl

theorem wEnableOn : Statement .wEnableOn := fun _ => rfl

theorem wEnableOff : Statement .wEnableOff := fun _ => rfl

theorem wDataCmdStart (a : Byte) : Statement (.wDataCmdStart a) := fun _ => rfl

theorem wDataCmdData (d : Byte) : Statement (.wDataCmdData d) := fun _ => rfl

theorem wDataCmdRead : Statement .wDataCmdRead := fun _ => rfl

theorem rEnStatus : Statement .rEnStatus := fun _ => rfl

theorem rRxflr : Statement .rRxflr := fun _ => rfl

theorem rDataCmd : Statement .rDataCmd := fun _ => rfl

theorem wSysUsefpga : Statement .wSysUsefpga := fun _ => rfl

theorem wSysGpioA : Statement .wSysGpioA := fun _ => rfl

theorem wSysGpioB : Statement .wSysGpioB := fun _ => rfl

theorem wri (sel : Byte) (imm : Word) : Statement (.wri sel imm) := fun _ => congrArg some (fieldOp_packHost _ _ _ _ _ _)

theorem wrv (sel : Byte) (vs : VarIx) : Statement (.wrv sel vs) := fun _ => congrArg some (fieldOp_packHost _ _ _ _ _ _)

theorem rd (vd : VarIx) (sel : Byte) : Statement (.rd vd sel) := fun _ => congrArg some (fieldOp_packHost _ _ _ _ _ _)

theorem movi (vd : VarIx) (imm : Word) : Statement (.movi vd imm) := fun _ => congrArg some (fieldOp_packHost _ _ _ _ _ _)

theorem addi (vd : VarIx) (vs : VarIx) (imm : Word) : Statement (.addi vd vs imm) := fun _ => congrArg some (fieldOp_packHost _ _ _ _ _ _)

theorem andi (vd : VarIx) (vs : VarIx) (imm : Word) : Statement (.andi vd vs imm) := fun _ => congrArg some (fieldOp_packHost _ _ _ _ _ _)

theorem ori (vd : VarIx) (vs : VarIx) (imm : Word) : Statement (.ori vd vs imm) := fun _ => congrArg some (fieldOp_packHost _ _ _ _ _ _)

theorem or (vd : VarIx) (vs : VarIx) (vt : VarIx) : Statement (.or vd vs vt) := fun _ => congrArg some (fieldOp_packHost _ _ _ _ _ _)

theorem shli (vd : VarIx) (vs : VarIx) (imm : Word) : Statement (.shli vd vs imm) := fun _ => congrArg some (fieldOp_packHost _ _ _ _ _ _)

theorem add (vd : VarIx) (vs : VarIx) (vt : VarIx) : Statement (.add vd vs vt) := fun _ => congrArg some (fieldOp_packHost _ _ _ _ _ _)

theorem beq (vs : VarIx) (vt : VarIx) (l : Word) : Statement (.beq vs vt l) := fun _ => congrArg some (fieldOp_packHost _ _ _ _ _ _)

theorem bne (vs : VarIx) (vt : VarIx) (l : Word) : Statement (.bne vs vt l) := fun _ => congrArg some (fieldOp_packHost _ _ _ _ _ _)

theorem bltu (vs : VarIx) (vt : VarIx) (l : Word) : Statement (.bltu vs vt l) := fun _ => congrArg some (fieldOp_packHost _ _ _ _ _ _)

theorem jmp (l : Word) : Statement (.jmp l) := fun _ => congrArg some (fieldOp_packHost _ _ _ _ _ _)

theorem sleep (ms : Word) : Statement (.sleep ms) := fun _ => congrArg some (fieldOp_packHost _ _ _ _ _ _)

theorem txb : Statement .txb := fun _ => congrArg some (fieldOp_packHost _ _ _ _ _ _)

theorem txe : Statement .txe := fun _ => congrArg some (fieldOp_packHost _ _ _ _ _ _)

theorem halt : Statement .halt := fun _ => congrArg some (fieldOp_packHost _ _ _ _ _ _)

end Sys2Proof.Laws.OpcodeByte
end

