-- ==== Sys2Proof/Laws/Step.lean ====
section
/-! SUPPORT. What a step can do, said once (00_scope.md R9). -/

namespace Sys2Proof.Machine

/-- A machine with nothing recorded and a step to take has not stopped. -/
theorem State.stopped_eq_none {s : State} (h1 : s.out.fault = none) (h2 : s.out.refused = none)
    (h : s.hostHasStep = true ∨ s.engineHasStep = true) : s.stopped = none := by
  simp only [State.stopped, h1, h2]
  rcases h with h | h <;> simp [h]

/-- A host turn is the host's step. -/
theorem step_host {s : State} (h1 : s.out.fault = none) (h2 : s.out.refused = none) (h : s.hostHasStep = true)
    (ht : s.turn = .host) : step s = hostStep s.takeTurn := by
  simp [step, State.stopped_eq_none h1 h2 (.inl h), ht]

@[simp] theorem State.takeTurn_hostHasStep (s : State) : s.takeTurn.hostHasStep = s.hostHasStep := by
  simp [State.hostHasStep]

/-- What a step can do: the host's turn passes, executes an instruction or records why it got none; or the engine's turn. -/
theorem step_next {s t : State} (h : step s = .next t) :
    (s.turn = .host ∧ (t = s.takeTurn
        ∨ ∃ u, (∃ acc, u = { s.takeTurn with env := { s.takeTurn.env with accesses := acc } }) ∧ ∃ i, exec i u = .next t)
      ∨ (s.turn = .host ∧ ((∃ c i, t = s.takeTurn.raise c i) ∨ (∃ c i, t = s.takeTurn.refuse c i))))
    ∨ ∃ e, s.turn = .engine e ∧ t = s.takeTurn.engineStep e := by
  unfold step at h
  split at h
  · rename_i o ho
    subst h
    unfold State.stopped at ho
    split at ho
    · cases ho
    · cases ho
    · split at ho <;> cases ho
  · split at h
    · rename_i ht
      left
      unfold hostStep at h
      split at h
      · split at h
        · rename_i i u hu
          left
          refine ⟨ht, .inr ⟨u, ?_, i, h⟩⟩
          unfold State.nextInstr at hu
          split at hu
          · obtain ⟨_, _, hh⟩ := Access.map_eq_ok hu
            cases hh
            exact ⟨_, rfl⟩
          · obtain ⟨_, _, hh⟩ := Access.map_eq_ok hu
            cases hh
            exact ⟨_, rfl⟩
        · cases h; exact .inr ⟨ht, .inl ⟨_, _, rfl⟩⟩
        · cases h; exact .inr ⟨ht, .inr ⟨_, _, rfl⟩⟩
      · cases h; exact .inl ⟨ht, .inl rfl⟩
    · rename_i e ht
      cases h; exact .inr ⟨e, ht, rfl⟩

end Sys2Proof.Machine
end

