-- ==== Sys2Proof/Machine/Assembly.lean ====
section
/-! DEFINITION. The assembly syntax of 30_encoding.md R117 and R118: one statement per line, read from its text, pseudo-instructions
expanded, labels replaced by absolute statement indices. No step uses it; it only writes programs down (log 19). -/

namespace Sys2Proof

/-- The name of a register in assembly (R117). -/
def RegName.name : RegName → String
  | .con => "CON"
  | .tar => "TAR"
  | .dataCmd => "DATA_CMD"
  | .fsHcnt => "FS_HCNT"
  | .fsLcnt => "FS_LCNT"
  | .enable => "ENABLE"
  | .rxflr => "RXFLR"
  | .enStatus => "EN_STATUS"
  | .usefpga => "USEFPGA"
  | .gpioA => "GPIO_A"
  | .gpioB => "GPIO_B"

/-- The mnemonic of an opcode (R112). -/
def HostOp.name : HostOp → String
  | .wri => "WRI"
  | .wrv => "WRV"
  | .rd => "RD"
  | .movi => "MOVI"
  | .addi => "ADDI"
  | .andi => "ANDI"
  | .ori => "ORI"
  | .or => "OR"
  | .shli => "SHLI"
  | .add => "ADD"
  | .beq => "BEQ"
  | .bne => "BNE"
  | .bltu => "BLTU"
  | .jmp => "JMP"
  | .sleep => "SLEEP"
  | .txb => "TXB"
  | .txe => "TXE"
  | .halt => "HALT"

/-- What stands at an operand's place (the "operands" column of R112). -/
inductive Slot where
  | d
  | s
  | t
  | sel
  | imm
  | target
  deriving DecidableEq, Repr

/-- The operands of an opcode, in the order of R112. -/
def HostOp.slots : HostOp → List Slot
  | .wri => [.sel, .imm]
  | .wrv => [.sel, .s]
  | .rd => [.d, .sel]
  | .movi => [.d, .imm]
  | .addi => [.d, .s, .imm]
  | .andi => [.d, .s, .imm]
  | .ori => [.d, .s, .imm]
  | .or => [.d, .s, .t]
  | .shli => [.d, .s, .imm]
  | .add => [.d, .s, .t]
  | .beq => [.s, .t, .target]
  | .bne => [.s, .t, .target]
  | .bltu => [.s, .t, .target]
  | .jmp => [.target]
  | .sleep => [.imm]
  | .txb => []
  | .txe => []
  | .halt => []

/-- An operand as written. -/
inductive Operand where
  | reg (r : RegName)
  | var (v : VarIx)
  | num (n : Nat)
  | label (l : String)
  deriving DecidableEq, Repr

/-- A statement as written; `jump` is a statement whose target is a label. -/
inductive AsmStmt where
  | host (i : Instr)
  | jump (i : Instr) (l : String)
  | pseudo (p : Pseudo)
  | access (op : BusOp)
  deriving DecidableEq, Repr

/-- A line: an optional label and an optional statement. -/
structure AsmLine where
  label : Option String
  stmt : Option AsmStmt
  deriving DecidableEq, Repr

/-! ### Reading the text -/

/-- Text without the spaces around it; no other character is blank (log 19). -/
def trimSpaces (cs : List Char) : List Char :=
  ((cs.dropWhile (· == ' ')).reverse.dropWhile (· == ' ')).reverse

/-- The pieces of a text between the separators `c`. -/
def splitPieces (c : Char) : List Char → List (List Char)
  | [] => [[]]
  | x :: xs =>
    match splitPieces c xs with
    | [] => [[x]]
    | w :: ws => if x == c then [] :: w :: ws else (x :: w) :: ws

/-- The value of a digit in a base; a hexadecimal digit in either case (log 19). -/
def digitValue (base : Nat) (c : Char) : Option Nat :=
  let n := c.toNat
  let d :=
    if 48 ≤ n ∧ n ≤ 57 then n - 48 else if 65 ≤ n ∧ n ≤ 70 then n - 55 else if 97 ≤ n ∧ n ≤ 102 then n - 87 else base
  if d < base then some d else none

/-- The number some digits spell after the number `acc`. -/
def digitsValue (base acc : Nat) : List Char → Option Nat
  | [] => some acc
  | c :: cs => (digitValue base c).bind fun d => digitsValue base (base * acc + d) cs

/-- "immediates in decimal or `0x` hexadecimal". -/
def parseNumber : List Char → Option Nat
  | [] => none
  | '0' :: 'x' :: c :: cs => digitsValue 16 0 (c :: cs)
  | c :: cs => digitsValue 10 0 (c :: cs)

/-- "variables as `v0` to `v15`". -/
def parseVar : List Char → Option VarIx
  | 'v' :: c :: cs =>
    match digitsValue 10 0 (c :: cs) with
    | some n => if h : n < 16 then some ⟨n, h⟩ else none
    | none => none
  | _ => none

/-- "Registers are written by name". -/
def parseReg (cs : List Char) : Option RegName := RegName.all.find? fun r => r.name == String.ofList cs

/-- An operand: a register, a variable, a number, or else a label. So an operand spelled like one of the first three is
never a label, of whose names the spec says nothing (DESIGN CHOICE, log 19). -/
def parseOperand (cs : List Char) : Operand :=
  match parseReg cs, parseVar cs, parseNumber cs with
  | some r, _, _ => .reg r
  | none, some v, _ => .var v
  | none, none, some n => .num n
  | none, none, none => .label (String.ofList cs)

/-- The fields of a host statement under way. -/
structure Fields where
  d : VarIx := 0
  s : VarIx := 0
  t : VarIx := 0
  sel : Byte := 0#8
  imm : Word := 0#32
  target : Option String := none
  deriving DecidableEq, Repr

/-- An operand put at its place, if it is of the place's kind and a number fits 32 bits. -/
def Fields.put (f : Fields) (p : Slot) (o : Operand) : Option Fields :=
  match p, o with
  | .d, .var v => some { f with d := v }
  | .s, .var v => some { f with s := v }
  | .t, .var v => some { f with t := v }
  | .sel, .reg r => some { f with sel := r.selector }
  | .imm, .num n => if n < 2 ^ 32 then some { f with imm := BitVec.ofNat 32 n } else none
  | .target, .num n => if n < 2 ^ 32 then some { f with imm := BitVec.ofNat 32 n } else none
  | .target, .label l => some { f with target := some l }
  | _, _ => none

/-- All operands put at their places. -/
def Fields.putAll (f : Fields) : List Slot → List Operand → Option Fields
  | [], [] => some f
  | p :: ps, o :: os => (f.put p o).bind fun g => g.putAll ps os
  | _, _ => none

/-- A host statement. -/
def parseHost (m : String) (os : List Operand) : Option AsmStmt :=
  (hostOps.find? fun o => o.name == m).bind fun o =>
    (({} : Fields).putAll o.slots os).bind fun f =>
      let i := o.build f.d f.s f.t f.sel f.imm
      if i.wellFormed then
        some (match f.target with
          | some l => .jump i l
          | none => .host i)
      else none

/-- A pseudo-instruction (R118), if its operands are admitted. -/
def parsePseudo (m : String) (os : List Operand) : Option AsmStmt :=
  let p : Option Pseudo :=
    match os with
    | [] => if m == "MUXINIT" then some .muxinit else none
    | [.var v] => if m == "INIT" then some (.init v) else none
    | [.var v, .reg r] => if m == "POLLNZ" then some (.pollnz v r.selector) else none
    | [.var v, .num a] => if m == "READREG" ∧ a < 256 then some (.readreg v (BitVec.ofNat 8 a)) else none
    | [.num a, .var v] =>
      if m == "SETEN" ∧ a < 256 then some (.seten (BitVec.ofNat 32 a) v)
      else if m == "WRITEREGV" ∧ a < 256 then some (.writeregv (BitVec.ofNat 8 a) v)
      else none
    | [.num a, .num b] =>
      if m == "WRITEREG" ∧ a < 256 ∧ b < 256 then some (.writereg (BitVec.ofNat 8 a) (BitVec.ofNat 8 b)) else none
    | [.num a, .num n, .var v] => if m == "READBURST" ∧ a < 256 then some (.readburst (BitVec.ofNat 8 a) n v) else none
    | _ => none
  p.bind fun q => if q.admitted then some (.pseudo q) else none

/-- A register access without a host program: `W <reg>, <value>` or `R <reg>` (R117). -/
def parseAccess (P : Params) (m : String) (os : List Operand) : Option AsmStmt :=
  match os with
  | [.reg r, .num n] => if m == "W" ∧ n < 2 ^ 32 then some (.access (P.writeOp r (BitVec.ofNat 32 n))) else none
  | [.reg r] => if m == "R" then some (.access (P.readOp r)) else none
  | _ => none

/-- A statement: a mnemonic, a space, operands separated by commas. -/
def parseStmt (P : Params) (cs : List Char) : Option AsmStmt :=
  let m := String.ofList (cs.takeWhile (· != ' '))
  let rest := trimSpaces (cs.dropWhile (· != ' '))
  let os := if rest.isEmpty then [] else (splitPieces ',' rest).map fun o => parseOperand (trimSpaces o)
  (parseHost m os).or ((parsePseudo m os).or (parseAccess P m os))

/-- A line: "optional `label:`, mnemonic, operands"; "`;` starts a comment". -/
def parseLine (P : Params) (line : String) : Option AsmLine :=
  let code := trimSpaces (line.toList.takeWhile (· != ';'))
  let (l, rest) :=
    match splitPieces ':' code with
    | [a, b] => (some (String.ofList (trimSpaces a)), trimSpaces b)
    | _ => (none, code)
  if rest.isEmpty then some ⟨l, none⟩ else (parseStmt P rest).map fun s => ⟨l, some s⟩

/-- Every line of a text. -/
def parseLines (P : Params) : List String → Option (List AsmLine)
  | [] => some []
  | x :: xs => (parseLine P x).bind fun l => (parseLines P xs).map fun ls => l :: ls

/-! ### Assembling -/

/-- How many host statements a statement becomes. -/
def AsmStmt.size (P : Params) : AsmStmt → Nat
  | .host _ => 1
  | .jump _ _ => 1
  | .pseudo p => (p.expand P 0).length
  | .access _ => 0

/-- The label of each line with the index of the first statement from it on, or past the last (log 19). -/
def labelIndices (P : Params) (base : Nat) : List AsmLine → List (String × Nat)
  | [] => []
  | x :: xs =>
    let rest := labelIndices P (base + (x.stmt.map (AsmStmt.size P)).getD 0) xs
    match x.label with
    | some l => (l, base) :: rest
    | none => rest

/-- A control transfer with its target set. -/
def Instr.retarget (i : Instr) (target : Word) : Instr :=
  match i with
  | .beq vs vt _ => .beq vs vt target
  | .bne vs vt _ => .bne vs vt target
  | .bltu vs vt _ => .bltu vs vt target
  | .jmp _ => .jmp target
  | _ => i

/-- The host statements of a statement at an index; an unknown label and an access without a program have none. -/
def AsmStmt.emit (P : Params) (labels : List (String × Nat)) (base : Nat) : AsmStmt → Option (List Instr)
  | .host i => some [i]
  | .jump i l => (labels.find? fun x => x.1 == l).map fun x => [i.retarget (targetOf x.2)]
  | .pseudo p => some (p.expand P base)
  | .access _ => none

/-- The host statements of the lines from an index on. -/
def emitLines (P : Params) (labels : List (String × Nat)) (base : Nat) : List AsmLine → Option (List Instr)
  | [] => some []
  | x :: xs =>
    match x.stmt with
    | none => emitLines P labels base xs
    | some st =>
      (st.emit P labels base).bind fun is => (emitLines P labels (base + is.length) xs).map fun js => is ++ js

/-- The program an assembly text stands for (R117, R118), if every line is well formed. -/
def assemble (P : Params) (text : List String) : Option (List HostWord) :=
  (parseLines P text).bind fun ls => (emitLines P (labelIndices P 0 ls) 0 ls).map (hostWords P)

end Sys2Proof
end

