-- ==== Sys2Proof/Machine/RefDevice.lean ====
section
/-! DEFINITION. The reference remote device of 41_bus_engine.md R186: a test fixture, not part of the block. No step uses it and
no statement is made at it; the model's own tests take given oracle answers from it. -/

namespace Sys2Proof

/-- The device: its address, its registers, its register pointer, and whether the next byte is a register address. -/
structure RefDevice where
  addr : Addr7
  mem : Vector Byte 256
  p : Byte
  expectAddr : Bool
  deriving DecidableEq, Repr

/-- `mem[p]`. -/
def RefDevice.current (d : RefDevice) : Byte := d.mem[d.p.toFin]

/-- What the device does on one bus event (R186); events of a transaction with another address do not reach it, since
that address is not acknowledged. -/
def RefDevice.see (d : RefDevice) (e : BusEvent) : RefDevice :=
  match e with
  | .start a .w _ => if a = d.addr then { d with expectAddr := true } else d
  | .restart a .w _ => if a = d.addr then { d with expectAddr := true } else d
  | .start _ .r _ => d
  | .restart _ .r _ => d
  | .tx b _ =>
    if d.expectAddr then { d with p := b, expectAddr := false }
    else { d with mem := d.mem.set d.p.toFin b, p := d.p + 1#8 }
  | .rx _ => { d with p := d.p + 1#8 }
  | .stop => d

/-- The device after a bus log. -/
def RefDevice.after (d : RefDevice) (log : List BusEvent) : RefDevice := log.foldl RefDevice.see d

/-- Its acknowledgement of a phase. -/
def RefDevice.ack (d : RefDevice) (p : AckPhase) : Bool :=
  match p with
  | .addr a _ => a == d.addr
  | .data _ => true

end Sys2Proof
end

