-- ==== Sys2Proof/Tests/Slice0.lean ====
section
/-! SUPPORT. This model's own tests: the well-formedness smoke, one written-out word for every constructor, the vectors of
95_test_vectors.md as single steps, and a witness for the hypotheses of every statement that has some. -/

namespace Sys2Proof.Machine.Tests

/-! ### States -/

/-- The premises of 95_test_vectors.md section 0. -/
def vectorParams : Params := { Params.default with gapModel := .bracketed, assumeAck := true }

/-- `S_ready` of 95_test_vectors.md section 0. -/
def ready : State :=
  { State.reset with
    cfg := vectorParams
    ctl := { Controller.reset with
      con := .written 0x65#32, tar := .written 0x53#7, hcnt := .written 90#16, lcnt := .written 160#16
      enReq := true, enStatus := true }
    sys := { usefpga := .written 0#32, gpioA := .written 1#32, gpioB := .written 1#32 } }

/-- Ready with the enable request and status given. -/
def withEnable (req status : Bool) : State := { ready with ctl := { ready.ctl with enReq := req, enStatus := status } }

/-- Disabled, `(enReq, enStatus) = (0, 0)`. -/
def disabled : State := withEnable false false

/-- Ready with a phase and FIFOs. -/
def withQueues (p : Phase) (cmd : List CmdEntry) (rx : List Byte) : State :=
  { ready with ctl := { ready.ctl with phase := p, cmdFifo := cmd, rxFifo := rx } }

/-- Ready with no assumption on the device, which gives these answers. -/
def answering (acks : List Bool) (bytes : List Byte) (s : State) : State :=
  { s with cfg := { s.cfg with assumeAck := false }, env := { s.env with acks := acks, rxBytes := bytes } }

/-- A command FIFO of one entry that is full. -/
def full : State :=
  { withQueues .idle [.rd] [] with cfg := { vectorParams with txDepth := 1 } }

/-- Variables written in order from `v0`, the others `Unwritten`. -/
def withVars (vs : List Word) (s : State) : State :=
  { s with host := { s.host with vars := Vector.ofFn fun i => match vs[i.val]? with
    | some v => .written v
    | none => .unwritten } }

/-- At the instance that follows R246's corner case. -/
def strictWrv (s : State) : State := { s with cfg := { s.cfg with wrvStartForm := false } }

/-- A program loaded. -/
def withProg (p : List HostWord) (s : State) : State := { s with prog := p }

/-- Enabled with a latched abort. -/
def latched (cmd : List CmdEntry) : State :=
  { withQueues .idle cmd [] with ctl := { ready.ctl with cmdFifo := cmd, abortLatch := true } }

/-- The state an outcome goes on in, if it does. -/
def after (o : Host.Outcome State Fault Refusal) : Option State :=
  match o with
  | .next t => some t
  | .fault _ => none
  | .refused _ => none

/-- The outcome record an access leaves. -/
def record (i : Instr) (s : State) : Option OutcomeRecord := (after (exec i s)).map fun t => t.out

/-- A recorded fault. -/
def faulted (c : FaultCode) (i : Info) : Option OutcomeRecord := some { fault := some (c, i), refused := none }

/-- A recorded refusal. -/
def refusedWith (c : RefusalCode) (i : Info) : Option OutcomeRecord := some { fault := none, refused := some (c, i) }

/-! ### Well-formedness (30_encoding.md R115) -/

/-- `SHLI` by 32 is ill formed and by 31 well formed. -/
theorem test_wellFormed_shli : (Instr.shli 1 1 32#32).wellFormed = false ∧ (Instr.shli 1 1 31#32).wellFormed = true := by
  decide

/-- The word of a `SHLI` by 32 is refused, and so is an ill-formed `SHLI` executed. -/
theorem test_shli_32_refused :
    decodeHost 0x1511000000000020#64 = .error (.undecodableHostWord, .hostWord 0x1511000000000020#64)
    ∧ record (.shli 1 1 32#32) ready = refusedWith .undecodableHostWord (.hostWord 0x1511000000000020#64) := by decide

/-! ### Host words, from 30_encoding.md R111 to R113 (the listings of 95_test_vectors.md section 3 where they have one) -/

theorem test_decode_wri : decodeHost 0x0100000500000001#64 = .ok (.wri 0x05#8 1#32) := by decide
theorem test_decode_wrv : decodeHost 0x0203000200000000#64 = .ok (.wrv 0x02#8 3) := by decide
theorem test_decode_rd : decodeHost 0x03F0000700000000#64 = .ok (.rd 15 0x07#8) := by decide
theorem test_decode_movi : decodeHost 0x10C0000000000064#64 = .ok (.movi 12 100#32) := by decide
theorem test_decode_addi : decodeHost 0x11EE000000000001#64 = .ok (.addi 14 14 1#32) := by decide
theorem test_decode_andi : decodeHost 0x12330000000000FF#64 = .ok (.andi 3 3 0xFF#32) := by decide
theorem test_decode_ori : decodeHost 0x1321000000000400#64 = .ok (.ori 2 1 0x400#32) := by decide
theorem test_decode_or : decodeHost 0x1477200000000000#64 = .ok (.or 7 7 2) := by decide
theorem test_decode_shli : decodeHost 0x1573000000000008#64 = .ok (.shli 7 3 8#32) := by decide
theorem test_decode_add : decodeHost 0x1600300000000000#64 = .ok (.add 0 0 3) := by decide
theorem test_decode_beq : decodeHost 0x200EC0000000000C#64 = .ok (.beq 14 12 12#32) := by decide
theorem test_decode_bne : decodeHost 0x210EC0000000000C#64 = .ok (.bne 14 12 12#32) := by decide
theorem test_decode_bltu : decodeHost 0x220EC00000000010#64 = .ok (.bltu 14 12 16#32) := by decide
theorem test_decode_jmp : decodeHost 0x2300000000000004#64 = .ok (.jmp 4#32) := by decide
theorem test_decode_sleep : decodeHost 0x3000000000000001#64 = .ok (.sleep 1#32) := by decide
theorem test_decode_txb_txe : decodeHost 0x3100000000000000#64 = .ok .txb
    ∧ decodeHost 0x3200000000000000#64 = .ok .txe := by decide
theorem test_decode_halt : decodeHost 0x3F00000000000000#64 = .ok .halt := by decide

/-- A destination, a reserved bit or an immediate where the opcode uses none. -/
theorem test_decode_unused_fields :
    decodeHost 0x2310000000000004#64 = .error (.undecodableHostWord, .hostWord 0x2310000000000004#64)
    ∧ decodeHost 0x3F00010000000000#64 = .error (.undecodableHostWord, .hostWord 0x3F00010000000000#64)
    ∧ decodeHost 0x0203000200000001#64 = .error (.undecodableHostWord, .hostWord 0x0203000200000001#64) := by decide

/-! ### Bus operations at the default map (00_scope.md R10, 30_encoding.md R102, R103) -/

theorem test_bus_wCon : decodeBus Params.default (.write .i2c 0 0x65#32) = .ok .wCon := by decide
theorem test_bus_wTar : decodeBus Params.default (.write .i2c 1 0x7F#32) = .ok (.wTar 0x7F#7) := by decide
theorem test_bus_wFsHcnt : decodeBus Params.default (.write .i2c 7 90#32) = .ok (.wFsHcnt 90#16) := by decide
theorem test_bus_wFsLcnt : decodeBus Params.default (.write .i2c 8 0xFFFF#32) = .ok (.wFsLcnt 0xFFFF#16) := by decide
theorem test_bus_wEnable : decodeBus Params.default (.write .i2c 27 1#32) = .ok .wEnableOn
    ∧ decodeBus Params.default (.write .i2c 27 2#32) = .ok .wEnableOff := by decide
theorem test_bus_reads : decodeBus Params.default (.read .i2c 39) = .ok .rEnStatus
    ∧ decodeBus Params.default (.read .i2c 30) = .ok .rRxflr
    ∧ decodeBus Params.default (.read .i2c 4) = .ok .rDataCmd := by decide
theorem test_bus_routing : decodeBus Params.default (.write .sys 449 0#32) = .ok .wSysUsefpga
    ∧ decodeBus Params.default (.write .sys 295 1#32) = .ok .wSysGpioA
    ∧ decodeBus Params.default (.write .sys 296 1#32) = .ok .wSysGpioB := by decide

/-- 95_test_vectors.md section 2.1: the values that have a form. -/
theorem test_cmd_forms :
    decodeBus Params.default (.write .i2c 4 0x400#32) = .ok (.wDataCmdStart 0x00#8)
    ∧ decodeBus Params.default (.write .i2c 4 0x4FF#32) = .ok (.wDataCmdStart 0xFF#8)
    ∧ decodeBus Params.default (.write .i2c 4 0x000#32) = .ok (.wDataCmdData 0x00#8)
    ∧ decodeBus Params.default (.write .i2c 4 0x0FF#32) = .ok (.wDataCmdData 0xFF#8)
    ∧ decodeBus Params.default (.write .i2c 4 0x100#32) = .ok .wDataCmdRead := by decide

/-- 95_test_vectors.md section 2.1: the values refused with X3. -/
theorem test_cmd_refused :
    decodeCmd Params.default 0x101#32 = .error (.unadmittedWriteValue, .value 0x101#32)
    ∧ decodeCmd Params.default 0x500#32 = .error (.unadmittedWriteValue, .value 0x500#32)
    ∧ decodeCmd Params.default 0x200#32 = .error (.unadmittedWriteValue, .value 0x200#32)
    ∧ decodeCmd Params.default 0x600#32 = .error (.unadmittedWriteValue, .value 0x600#32)
    ∧ decodeCmd Params.default 0x80000000#32 = .error (.unadmittedWriteValue, .value 0x80000000#32) := by decide

/-- 95_test_vectors.md section 2.2: values, reads and an offset refused. -/
theorem test_bus_refused :
    decodeBus Params.default (.write .i2c 0 0x64#32) = .error (.unadmittedWriteValue, .regValue .con 0x64#32)
    ∧ decodeBus Params.default (.write .i2c 1 0x80#32) = .error (.unadmittedWriteValue, .regValue .tar 0x80#32)
    ∧ decodeBus Params.default (.write .i2c 27 3#32) = .error (.unadmittedWriteValue, .regValue .enable 3#32)
    ∧ decodeBus Params.default (.write .i2c 30 0#32) = .error (.unadmittedWriteValue, .regValue .rxflr 0#32)
    ∧ decodeBus Params.default (.read .i2c 0) = .error (.unadmittedRead, .reg .con)
    ∧ decodeBus Params.default (.read .i2c 2) = .error (.unmappedRegister, .offset .i2c 2) := by decide

/-! ### Rows of the opcode table, decoded and run as the first instruction after reset -/

theorem test_table_words : decodeTableWord 32 0x65 = some .wCon ∧ decodeTableWord 32 0x432 = some (.wDataCmdStart 0x32#8)
    ∧ decodeTableWord 0 0 = some .rEnStatus ∧ decodeTableWord 64 0x10C0000000000064 = some (.movi 12 100#32) := by decide

theorem test_fetch_word_runs :
    (after (step (State.reset.withFetchWord 32 0x65))).map (fun t => t.ctl.con) = some (.written 0x65#32)
    ∧ (after (step (State.reset.withFetchWord 64 0x10C0000000000064))).map (fun t => (t.host.pc, t.host.vars[12])) =
        some (1, .written 100#32) := by decide

/-! ### Register accesses (95_test_vectors.md section 2.2) -/

theorem test_wCon_locked : record .wCon ready = faulted .configWhileEnabled (.reg .con) := by decide
theorem test_wTar_enable_pending : record (.wTar 0x53#7) (withEnable true false) = faulted .configWhileEnabled (.reg .tar) := by
  decide
theorem test_wFsHcnt_disable_pending :
    record (.wFsHcnt 90#16) (withEnable false true) = faulted .configWhileEnabled (.reg .fsHcnt) := by decide
theorem test_wFsLcnt_disabled : (after (exec (.wFsLcnt 0xFFFF#16) disabled)).map (fun t => t.ctl.lcnt) =
    some (.written 0xFFFF#16) := by decide
theorem test_wEnableOn_disabled : (after (exec .wEnableOn disabled)).map (fun t => (t.ctl.enReq, t.ctl.enStatus)) =
    some (true, false) := by decide
theorem test_wEnableOn_disable_pending :
    record .wEnableOn (withEnable false true) = faulted .enableDuringDisable (.reg .enable) := by decide
theorem test_wEnableOff : (after (exec .wEnableOff ready)).map (fun t => (t.ctl.enReq, t.ctl.enStatus)) =
    some (false, true) := by decide
theorem test_wDataCmdStart : (after (exec (.wDataCmdStart 0x32#8) ready)).map (fun t => t.ctl.cmdFifo) =
    some [.wr 0x32#8 true] := by decide
theorem test_wDataCmdStart_disabled :
    record (.wDataCmdStart 0x32#8) disabled = faulted .dataCmdWhileDisabled (.reg .dataCmd) := by decide
theorem test_wDataCmdData : (after (exec (.wDataCmdData 8#8) (withQueues .idle [.wr 0x2D#8 true] []))).map
    (fun t => t.ctl.cmdFifo) = some [.wr 0x2D#8 true, .wr 8#8 false] := by decide
theorem test_wDataCmdRead_pending :
    record .wDataCmdRead (withEnable true false) = faulted .dataCmdWhileDisabled (.reg .dataCmd) := by decide
theorem test_wDataCmdRead_full : record .wDataCmdRead full = faulted .cmdOverflow (.reg .dataCmd) := by decide
theorem test_rRxflr : (after (exec .rRxflr (withQueues .idle [] [0x10#8, 0x20#8]))).map (fun t => t.env.result) =
    some 2#32 := by decide
theorem test_rEnStatus : ∃ u : BitVec 31, (after (exec .rEnStatus ready)).map (fun t => t.env.result) = some (u ++ 1#1) :=
  ⟨Config.freeBits 31 0, rfl⟩
theorem test_rDataCmd : (after (exec .rDataCmd (withQueues .idle [] [0x10#8, 0x20#8]))).map (fun t => t.ctl.rxFifo) =
    some [0x20#8] := by decide
theorem test_rDataCmd_empty : record .rDataCmd ready = faulted .rxUnderflow (.reg .dataCmd) := by decide
theorem test_routing : ((after (exec .wSysUsefpga State.reset)).bind fun s => (after (exec .wSysGpioA s)).bind fun t =>
    (after (exec .wSysGpioB t)).map State.muxRouted) = some true := by decide

/-! ### Host statements (the examples of 43_host_program.md) -/

theorem test_wri_enable : (after (exec (.wri 0x05#8 1#32) disabled)).map (fun t => (t.ctl.enReq, t.host.pc)) =
    some (true, 1) := by decide
/-- 95_test_vectors.md section 2.2: the decode comes before F4. -/
theorem test_wri_decode_first : record (.wri 0x02#8 0x999#32) disabled =
    refusedWith .unadmittedWriteValue (.value 0x999#32) := by decide
theorem test_wrv : (after (exec (.wrv 0x02#8 3) (withVars [0, 0, 0, 8] ready))).map (fun t => t.ctl.cmdFifo) =
    some [.wr 8#8 false] := by decide
/-- A variable that holds a START form, by R246's pseudocode and by its corner case (log 21). -/
theorem test_wrv_start : (after (exec (.wrv 0x02#8 0) (withVars [0x432] ready))).map (fun t => t.ctl.cmdFifo) =
    some [.wr 0x32#8 true] := by decide
theorem test_wrv_start_strict : record (.wrv 0x02#8 0) (strictWrv (withVars [0x432] ready)) =
    refusedWith .unadmittedWriteValue (.value 0x432#32) := by decide
theorem test_wrv_selector_first : record (.wrv 0x13#8 3) ready = refusedWith .unmappedRegister (.selector 0x13#8) := by
  decide
theorem test_rd_rxflr : (after (exec (.rd 4 0x06#8) (withQueues .idle [] [7#8]))).map (fun t => (t.host.vars[4], t.host.pc)) =
    some (.written 1#32, 1) := by decide
theorem test_rd_write_only : record (.rd 0 0x05#8) ready = refusedWith .unadmittedRead (.reg .enable) := by decide
theorem test_movi : (after (exec (.movi 1 100#32) ready)).map (fun t => t.host.vars[1]) = some (.written 100#32) := by decide
/-- R249: 0xFFFFFFFF and 1 give 0. -/
theorem test_addi_wraps : (after (exec (.addi 0 0 1#32) (withVars [0xFFFFFFFF] ready))).map (fun t => t.host.vars[0]) =
    some (.written 0#32) := by decide
theorem test_addi_unwritten : record (.addi 0 1 1#32) (withVars [5] ready) = faulted .hostUnwrittenVar (.var 1) := by decide
theorem test_andi : (after (exec (.andi 0 0 1#32) (withVars [0xFFFFFFF1] ready))).map (fun t => t.host.vars[0]) =
    some (.written 1#32) := by decide
theorem test_ori : (after (exec (.ori 0 0 0x400#32) (withVars [0x32] ready))).map (fun t => t.host.vars[0]) =
    some (.written 0x432#32) := by decide
theorem test_or : (after (exec (.or 2 1 0) (withVars [0x10, 0x100] ready))).map (fun t => t.host.vars[2]) =
    some (.written 0x110#32) := by decide
theorem test_or_second_unwritten : record (.or 2 0 1) (withVars [5] ready) = faulted .hostUnwrittenVar (.var 1) := by decide
/-- R254: bits above 31 are lost. -/
theorem test_shli : (after (exec (.shli 1 1 31#32) (withVars [0, 3] ready))).map (fun t => t.host.vars[1]) =
    some (.written 0x80000000#32) := by decide
theorem test_add : (after (exec (.add 0 0 0) (withVars [0x80000008] ready))).map (fun t => t.host.vars[0]) =
    some (.written 0x10#32) := by decide
theorem test_beq_taken : (after (exec (.beq 0 1 1#32) (withProg [0, 0] (withVars [1, 1] ready)))).map (fun t => t.host.pc) =
    some 1 := by decide
theorem test_beq_outside : record (.beq 0 0 2#32) (withProg [0, 0] (withVars [1] ready)) =
    faulted .hostBadTarget (.index 2) := by decide
theorem test_bne_not_taken : (after (exec (.bne 0 0 5#32) (withVars [0] ready))).map (fun t => t.host.pc) = some 1 := by decide
/-- R258: 0xFFFFFFFF is the largest value. -/
theorem test_bltu_unsigned : (after (exec (.bltu 0 1 0#32) (withVars [0xFFFFFFFF, 0] ready))).map (fun t => t.host.pc) =
    some 1 := by decide
theorem test_bltu_taken : (after (exec (.bltu 0 1 3#32) (withProg [0, 0, 0, 0] (withVars [9, 10] ready)))).map
    (fun t => t.host.pc) = some 3 := by decide
theorem test_jmp_outside : record (.jmp 4#32) (withProg [0] ready) = faulted .hostBadTarget (.index 4) := by decide
theorem test_sleep_txb : after (exec (.sleep 0#32) ready) = some { ready with host := { ready.host with pc := 1 } }
    ∧ (after (exec .txb ready)).map (fun t => t.host.inTxn) = some true := by decide
theorem test_txe_halt :
    (after (exec .txe { ready with host := { ready.host with inTxn := true } })).map (fun t => t.host.inTxn) = some false
    ∧ (after (exec .halt ready)).map (fun t => (t.host.halted, t.host.pc)) = some (true, 0) := by decide

/-- R242: running off the program raises F9. -/
theorem test_pc_out : (after (step ready)).map (fun t => t.out) = faulted .hostPcOut (.index 0) := by decide
/-- R285: after a refusal no agent takes a step. -/
theorem test_stops_after_refusal :
    (after (step (withProg [0] ready))).map step = some (.refused (.refusalRecorded .undecodableHostWord (.hostWord 0#64))) :=
  rfl
/-- R261: a halted host performs no access either. -/
theorem test_halted_host_takes_no_step :
    (after (step { withQueues .write [] [] with
      host := { ready.host with halted := true }, env := { ready.env with accesses := [.bus (.write .i2c 27 2#32)] } })).map
      (fun t => (t.ctl.enReq, t.env.accesses.length)) = some (true, 1) := by decide
/-- R73: an access of 8 bits is X5. -/
theorem test_width_1 : decodePhys Params.default ⟨1, 0xFFC04000, none⟩ =
    .error (.badWidthOrAddress, .access 1 0xFFC04000) := by decide

/-! ### Engine steps (95_test_vectors.md section 2.3) -/

theorem test_engine_start : (ready.engineStep .takeStart = ready)
    ∧ ((withQueues .idle [.wr 0x32#8 true] []).engineStep .takeStart).ctl =
      { ready.ctl with phase := .write, busLog := [.start 0x53#7 .w true, .tx 0x32#8 true] } := by decide
theorem test_engine_restart : ((withQueues .read [.wr 0x10#8 true] []).engineStep .takeStart).ctl =
    { ready.ctl with phase := .write, busLog := [.restart 0x53#7 .w true, .tx 0x10#8 true] } := by decide
theorem test_engine_data : ((withQueues .write [.wr 8#8 false] []).engineStep .takeData).ctl.busLog = [.tx 8#8 true]
    ∧ ((withQueues .idle [.wr 8#8 false] []).engineStep .takeData).ctl.busLog =
      [.start 0x53#7 .w true, .tx 8#8 true] := by decide
theorem test_engine_read : ((answering [true] [0x10#8] (withQueues .write [.rd] [])).engineStep .takeRead).ctl =
    { ready.ctl with phase := .read, rxFifo := [0x10#8], busLog := [.restart 0x53#7 .r true, .rx 0x10#8] } := by decide
theorem test_engine_read_on : ((answering [] [0#8] (withQueues .read [.rd] [0x10#8])).engineStep .takeRead).ctl =
    { ready.ctl with phase := .read, rxFifo := [0x10#8, 0#8], busLog := [.rx 0#8] } := by decide
theorem test_engine_stop : ((withQueues .write [] []).engineStep .stop).ctl = { ready.ctl with busLog := [.stop] } := by decide
theorem test_engine_gap_held : { withQueues .write [] [] with host := { ready.host with inTxn := true } }.engineHasStep = false
    ∧ ready.engineHasStep = false := by decide
theorem test_engine_nack_address :
    ((answering [false] [] (withQueues .idle [.wr 0x32#8 true, .rd] [])).engineStep .takeStart).ctl =
    { ready.ctl with abortLatch := true, busLog := [.start 0x53#7 .w false, .stop] } := by decide
theorem test_engine_nack_byte :
    ((answering [true, false] [] (withQueues .idle [.wr 0x32#8 true] [])).engineStep .takeStart).ctl =
    { ready.ctl with abortLatch := true, busLog := [.start 0x53#7 .w true, .tx 0x32#8 false, .stop] } := by decide
theorem test_engine_discard : ((latched [.rd]).engineStep .discard).ctl = { ready.ctl with abortLatch := true } := by decide
theorem test_engine_disable :
    ({ ready with ctl := { ready.ctl with
        enReq := false, phase := .write, cmdFifo := [.rd, .rd], rxFifo := [0x10#8], abortLatch := true } }.engineStep
      .disableSync).ctl = { disabled.ctl with busLog := [.stop] } := by decide
theorem test_engine_enable : ((withEnable true false).engineStep .enableSync).ctl = ready.ctl := by decide
theorem test_engine_unconfigured :
    ({ withQueues .idle [.wr 0#8 true] [] with
        ctl := { ready.ctl with con := .unwritten, cmdFifo := [.wr 0#8 true] } }.engineStep .takeStart).out.fault =
    some (.engineUnconfigured, .reg .con) := by decide
theorem test_engine_rx_overflow :
    ({ withQueues .read [.rd] [1#8, 2#8] with cfg := { vectorParams with rxDepth := 2 } }.engineStep .takeRead).out.fault =
    some (.rxOverflow, .depth 2) := by decide

/-- The reference device of R186: a byte after the address sets the pointer, the next is stored and the pointer moves. -/
theorem test_ref_device :
    let d : RefDevice := { addr := 0x53#7, mem := Vector.replicate 256 0#8, p := 0#8, expectAddr := false }
    let e := d.after [.start 0x53#7 .w true, .tx 0x2D#8 true, .tx 8#8 true, .stop]
    e.p = 0x2E#8 ∧ e.mem[0x2D] = 8#8 ∧ d.ack (.addr 0x52#7 .w) = false := by decide

/-! ### Programs written down (95_test_vectors.md section 3) -/

/-- P4. -/
theorem test_assemble_P4 : assemble Params.default ["SETEN 1, v0", "HALT"] =
    some [ 0x0100000500000001#64, 0x10E0000000000000#64, 0x10D0000000000001#64, 0x10C0000000000064#64,
      0x03F0000700000000#64, 0x12FF000000000001#64, 0x200FD0000000000C#64, 0x200EC0000000000C#64,
      0x0100000500000001#64, 0x3000000000000001#64, 0x11EE000000000001#64, 0x2300000000000004#64,
      0x10C000000000000A#64, 0x1000000000000001#64, 0x220EC00000000010#64, 0x1000000000000000#64,
      0x3F00000000000000#64 ] := by decide

/-- P5. -/
theorem test_assemble_P5 :
    assemble Params.default ["MOVI v0, 0", "MOVI v1, 0", "MOVI v2, 3", "LOOP: READREG v3, 0x00 ; one byte",
      "ADD v0, v0, v3", "ADDI v1, v1, 1", "BLTU v1, v2, LOOP", "HALT"] =
    some [ 0x1000000000000000#64, 0x1010000000000000#64, 0x1020000000000003#64, 0x3100000000000000#64,
      0x0100000200000400#64, 0x0100000200000100#64, 0x3200000000000000#64, 0x10D0000000000000#64,
      0x03F0000600000000#64, 0x200FD00000000008#64, 0x0330000200000000#64, 0x12330000000000FF#64,
      0x1600300000000000#64, 0x1111000000000001#64, 0x2201200000000003#64, 0x3F00000000000000#64 ] := by decide

/-- P7, and a register access without a program. -/
theorem test_assemble_P7 :
    assemble Params.default ["WRI DATA_CMD, 0x42D", "WRI DATA_CMD, 0x08", "HALT"] =
      some [0x010000020000042D#64, 0x0100000200000008#64, 0x3F00000000000000#64]
    ∧ parseLine Params.default "R RXFLR" = some ⟨none, some (.access (.read .i2c 30))⟩ := by decide

/-! ### The hypotheses of the statements are met, each clause at a boundary value

Named after the statement. A statement without hypotheses has none here. -/

/-- Ready at a schedule. -/
def atTurn (t : Turn) (s : State) : State := { s with env := { s.env with sched := [t] } }

/-- With a record. -/
def recorded (f : Option (FaultCode × Info)) (r : Option (RefusalCode × Info)) (s : State) : State :=
  { s with out := { fault := f, refused := r } }

/-- Pins not routed. -/
def unrouted (s : State) : State := { s with sys := { s.sys with gpioB := .unwritten } }

theorem test_witness_EncodingDecodesToItsInstruction :
    Params.default.wf = true ∧ { Params.default with startBit := 9 }.wf = true
    ∧ { Params.default with startBit := 31 }.wf = true ∧ { Params.default with startBit := 8 }.wf = false
    ∧ (Instr.shli 15 0 31#32).wellFormed = true := by decide

theorem test_witness_DecodedCodeIsItsEncoding :
    decode Params.default (.host 0x1511000000000003#64) = .ok (.shli 1 1 3#32)
    ∧ decode Params.default (.bus (.write .i2c 4 0x4FF#32)) = .ok (.wDataCmdStart 0xFF#8)
    ∧ decode Params.default (.bus (.read .i2c 39)) = .ok .rEnStatus := by decide

/-- One word for each way of R115: an opcode the table lacks, each field unused, `z`, and a shift by 32. -/
theorem test_witness_IllegalHostWords :
    IllegalWord 0#64 ∧ IllegalWord 0x2310000000000004#64 ∧ IllegalWord 0x2301000000000004#64
    ∧ IllegalWord 0x2300100000000004#64 ∧ IllegalWord 0x2300000100000004#64 ∧ IllegalWord 0x3F00000000000001#64
    ∧ IllegalWord 0x3F00010000000000#64 ∧ IllegalWord 0x1511000000000020#64
    ∧ (withProg [0#64] ready).HostTakesStatement ∧ (withProg [0#64] ready).prog[0]? = some 0#64 :=
  ⟨.inl (by decide), .inr (.inl ⟨{ imm := true }, by decide, by decide⟩),
    .inr (.inl ⟨{ imm := true }, by decide, by decide⟩), .inr (.inl ⟨{ imm := true }, by decide, by decide⟩),
    .inr (.inl ⟨{ imm := true }, by decide, by decide⟩), .inr (.inl ⟨{}, by decide, by decide⟩),
    .inr (.inr (.inl (by decide))), .inr (.inr (.inr (by decide))), by decide, by decide⟩

/-- 0x101 is a value of none of the three forms. -/
theorem test_witness_no_command_form :
    (∀ a : Byte, (0x101#32 : Word) ≠ a.setWidth 32 ||| Params.default.startFlag)
    ∧ (∀ d : Byte, (0x101#32 : Word) ≠ d.setWidth 32) ∧ (0x101#32 : Word) ≠ 0x100#32 := by
  refine ⟨fun a h => ?_, fun d h => ?_, by decide⟩
  · have := congrArg (fun v : Word => v.getLsbD 10) h
    simp [Params.startFlag, Params.default] at this
  · have := congrArg (fun v : Word => v.getLsbD 8) h
    simp at this

theorem test_witness_AccessIsDecodedByItsOffset :
    (∀ r : RegName, r.window = .i2c → Params.default.offset r ≠ 2)
    ∧ (∀ r : RegName, r.window = .sys → Params.default.offset r ≠ 0) :=
  ⟨fun r => by cases r <;> decide, fun r => by cases r <;> decide⟩

theorem test_witness_UnadmittedWritesAreRefused :
    Params.default.wf = true ∧ 0x64#32 ≠ Params.default.conValue ∧ 0x80 ≤ (0x80#32).toNat ∧ 0x10000 ≤ (0x10000#32).toNat
    ∧ (0#32 ≠ 1#32 ∧ 0#32 ≠ 2#32) ∧ (3#32 ≠ 1#32 ∧ 3#32 ≠ 2#32) ∧ 1#32 ≠ 0#32 ∧ 0#32 ≠ 1#32 ∧ 2#32 ≠ 1#32 := by decide

theorem test_witness_PhysicalAccess :
    (⟨1, 0xFFC04000, none⟩ : PhysAccess).width ≠ 4 ∧ (⟨8, 0xFFC04000, none⟩ : PhysAccess).width ≠ 4
    ∧ (∀ r : RegName, Params.default.address r ≠ 0xFFC04001) ∧ (∀ r : RegName, Params.default.address r ≠ 0xFFC04008)
    ∧ 0xFFC0409C = Params.default.base RegName.enStatus.window + 4 * Params.default.offset .enStatus
    ∧ (∀ r' : RegName, Params.default.address r' = Params.default.address .enStatus → r' = .enStatus)
    ∧ decodePhys Params.default ⟨4, 0xFFC0409C, none⟩ = .ok .rEnStatus :=
  ⟨by decide, by decide, fun r => by cases r <;> decide, fun r => by cases r <;> decide, by decide,
    fun r => by cases r <;> decide, by decide⟩

theorem test_witness_SelectorsNameTheirRegisters :
    (0x08#8 : Byte) ≤ 0x08#8 ∧ (0x08#8 : Byte) ≤ 0x0F#8 ∧ (0x0F#8 : Byte) ≤ 0x0F#8 ∧ (0x13#8 : Byte) ≤ 0x13#8
    ∧ (0x13#8 : Byte) ≤ 0xFF#8 ∧ selectorRegister 0x0F#8 = none ∧ selectorRegister 0xFF#8 = none := by decide

theorem test_witness_ConfigurationWritesNeedDisabled :
    (disabled.ctl.enStatus = false ∧ disabled.ctl.enReq = false) ∧ (withEnable false true).ctl.enStatus = true
    ∧ (withEnable true false).ctl.enReq = true := by decide

theorem test_witness_EnableWritesSetTheRequest :
    (withEnable true true).ctl.enReq = true ∧ disabled.ctl.enStatus = false
    ∧ ((withEnable false true).ctl.enReq = false ∧ (withEnable false true).ctl.enStatus = true) := by decide

theorem test_witness_CommandWritesPushOneEntry :
    (ready.ctl.enStatus = true ∧ ready.ctl.cmdFifo.length ≠ ready.cfg.txDepth) ∧ disabled.ctl.enStatus = false
    ∧ (full.ctl.enStatus = true ∧ full.ctl.cmdFifo.length = full.cfg.txDepth) := by decide

theorem test_witness_DataReadPopsTheOldestByte :
    (withQueues .idle [] [0x10#8]).ctl.rxFifo = 0x10#8 :: [] ∧ ready.ctl.rxFifo = [] := by decide

/-- Configuration writes that execute normally, at boundary values. -/
theorem test_witness_HostWritesPerformTheRegisterWrite :
    (selectorRegister 0x00#8 = some .con ∧ decodeWrite disabled.cfg .con 0x65#32 = .ok .con ∧ writeRuns .con disabled)
    ∧ (decodeWrite disabled.cfg .tar 0x7F#32 = .ok (.tar 0x7F#7) ∧ writeRuns (.tar 0x7F#7) disabled)
    ∧ (decodeWrite disabled.cfg .fsHcnt 0xFFFF#32 = .ok (.fsHcnt 0xFFFF#16) ∧ writeRuns (.fsHcnt 0xFFFF#16) disabled)
    ∧ (decodeWrite disabled.cfg .fsLcnt 0#32 = .ok (.fsLcnt 0#16) ∧ writeRuns (.fsLcnt 0#16) disabled) := by
  simp only [writeRuns]; decide

/-- The others, and the variable of a `WRV`. -/
theorem test_witness_HostWritesPerformTheRegisterWrite_rest :
    (decodeWrite disabled.cfg .enable 1#32 = .ok .enableOn ∧ writeRuns .enableOn disabled)
    ∧ (decodeWrite ready.cfg .enable 2#32 = .ok .enableOff ∧ writeRuns .enableOff ready)
    ∧ (decodeWrite ready.cfg .dataCmd 0x400#32 = .ok (.start 0#8) ∧ writeRuns (.start 0#8) ready)
    ∧ (decodeWrite ready.cfg .dataCmd 8#32 = .ok (.data 8#8) ∧ writeRuns (.data 8#8) ready)
    ∧ (decodeWrite ready.cfg .dataCmd 0x100#32 = .ok .read ∧ writeRuns .read ready)
    ∧ (selectorRegister 0x10#8 = some .usefpga ∧ decodeWrite ready.cfg .usefpga 0#32 = .ok .usefpga)
    ∧ (selectorRegister 0x12#8 = some .gpioB ∧ decodeWrite ready.cfg .gpioB 1#32 = .ok .gpioB)
    ∧ (withVars [0, 0, 0, 8] ready).host.vars[3] = .written 8#32 ∧ (8#32 : Word).toNat ≤ 0xFF
    ∧ ready.cfg.wrvStartForm = true := by
  simp only [writeRuns]; decide

theorem test_witness_HostWritesTakeTheRegisterRulesStops :
    (selectorRegister 0x00#8 = some .con
      ∧ decodeWrite ready.cfg .con 0x64#32 = .error (.unadmittedWriteValue, .regValue .con 0x64#32)
      ∧ (withVars [0x64] ready).host.vars[0] = .written 0x64#32)
    ∧ (decodeWrite ready.cfg .con 0x65#32 = .ok .con ∧ ¬ writeRuns .con ready)
    ∧ (decodeWrite full.cfg .dataCmd 0x100#32 = .ok .read ∧ ¬ writeRuns .read full)
    ∧ (decodeWrite disabled.cfg .dataCmd 0x400#32 = .ok (.start 0#8) ∧ ¬ writeRuns (.start 0#8) disabled
      ∧ ∀ j : VarIx, disabled.host.vars[j] = .unwritten)
    ∧ (let s := strictWrv (withVars [0x101] ready);
      s.cfg.wrvStartForm = false ∧ 0xFF < (0x101#32 : Word).toNat ∧ (0x101#32 : Word) ≠ 0x100#32
      ∧ s.host.vars[0] = .written 0x101#32)
    ∧ (decodeWrite ready.cfg .enable 1#32 = .ok .enableOn ∧ ¬ writeRuns .enableOn (withEnable false true)) := by
  simp only [writeRuns]; decide

theorem test_witness_HostReadsLoadTheRegister :
    selectorRegister 0x07#8 = some .enStatus ∧ selectorRegister 0x06#8 = some .rxflr
    ∧ (selectorRegister 0x02#8 = some .dataCmd ∧ (withQueues .idle [] [0x10#8]).ctl.rxFifo = 0x10#8 :: []
      ∧ ready.ctl.rxFifo = [])
    ∧ (selectorRegister 0x12#8 = some .gpioB ∧ RegName.gpioB ≠ .enStatus ∧ RegName.gpioB ≠ .rxflr
      ∧ RegName.gpioB ≠ .dataCmd) := by decide

theorem test_witness_ImmediateArithmetic :
    (31#32 : Word).toNat ≤ 31 ∧ 31 < (32#32 : Word).toNat ∧ (withVars [7] ready).host.vars[0] = .written 7#32
    ∧ (withVars [7] ready).host.vars[1] = .unwritten := by decide

theorem test_witness_VariableArithmetic :
    ((withVars [7, 9] ready).host.vars[0] = .written 7#32 ∧ (withVars [7, 9] ready).host.vars[1] = .written 9#32)
    ∧ (withVars [7, 9] ready).host.vars[2] = .unwritten := by decide

/-- The targets 1 and 2 where a program of two words ends; equal, different and ordered operands. -/
theorem test_witness_BranchesCompareVariables :
    let s := withProg [0, 0] (withVars [1, 2] ready)
    s.host.vars[0] = .written 1#32 ∧ s.host.vars[1] = .written 2#32 ∧ s.host.vars[2] = .unwritten
    ∧ (1#32 : Word).toNat < s.prog.length ∧ s.prog.length ≤ (2#32 : Word).toNat
    ∧ (1#32 : Word) ≠ 2#32 ∧ (1#32 : Word).toNat < (2#32 : Word).toNat ∧ ¬ (2#32 : Word).toNat < (1#32 : Word).toNat := by
  decide

theorem test_witness_JumpGoesToItsTarget :
    (1#32 : Word).toNat < (withProg [0, 0] ready).prog.length ∧ (withProg [0, 0] ready).prog.length ≤ (2#32 : Word).toNat := by
  decide

/-- The second source of two, and the one of a `WRV`. -/
theorem test_witness_UnwrittenSourceFaults :
    sourceVars (.or 0 0 1) = [0] ++ 1 :: [] ∧ (∀ k ∈ [(0 : VarIx)], (withVars [7] ready).host.vars[k] ≠ .unwritten)
    ∧ (withVars [7] ready).host.vars[1] = .unwritten ∧ (Instr.or 0 0 1).wellFormed = true
    ∧ sourceVars (.wrv 0x02#8 1) = [] ++ 1 :: [] ∧ selectorRegister 0x02#8 ≠ none := by decide

/-- For each clause a state at which the later check would stop too: at `ready` configuration writes are locked. -/
theorem test_witness_EarlierCheckWins :
    (selectorRegister 0x13#8 = none ∧ ready.host.vars[3] = .unwritten)
    ∧ (selectorRegister 0x06#8 ≠ none ∧ decodeWrite ready.cfg .rxflr 0#32 = .error (.unadmittedWriteValue, .regValue .rxflr 0))
    ∧ (let s := { disabled with cfg := { disabled.cfg with txDepth := 1 }, ctl := { disabled.ctl with cmdFifo := [.rd] } };
      s.cfg.wf = true ∧ s.ctl.enStatus = false ∧ s.ctl.cmdFifo.length = s.cfg.txDepth
      ∧ (0x400#32 : Word) = (0#8 : Byte).setWidth 32 ||| s.cfg.startFlag)
    ∧ (let s := { withQueues .idle [.rd] [1#8] with
          cfg := { vectorParams with rxDepth := 1 }
          ctl := { ready.ctl with cmdFifo := [.rd], rxFifo := [1#8], tar := .unwritten } };
      s.engineEnabled .takeRead = true ∧ s.cfgReady = false ∧ s.ctl.rxFifo.length = s.cfg.rxDepth) := by decide

/-- The values of the fourth clause, and the registers of the fifth. -/
theorem test_witness_EarlierCheckWins_decode :
    (let s := strictWrv (withVars [0x400] { disabled with
        cfg := { disabled.cfg with txDepth := 1 }, ctl := { disabled.ctl with cmdFifo := [.rd] } });
      s.cfg.wf = true ∧ s.ctl.enStatus = false ∧ s.ctl.cmdFifo.length = s.cfg.txDepth
      ∧ s.host.vars[0] = .written 0x400#32 ∧ s.cfg.wrvStartForm = false ∧ 0xFF < (0x400#32 : Word).toNat) ∧
    ready.cfg.wf = true ∧ ready.cfgLocked = true ∧ (withEnable false true).engineEnabled .disableSync = true
    ∧ (selectorRegister 0x00#8 = some .con ∧ (0x64#32 : Word) ≠ ready.cfg.conValue)
    ∧ (selectorRegister 0x01#8 = some .tar ∧ 0x80 ≤ (0x80#32 : Word).toNat)
    ∧ (selectorRegister 0x03#8 = some .fsHcnt ∧ selectorRegister 0x04#8 = some .fsLcnt ∧ 0x10000 ≤ (0x10000#32 : Word).toNat)
    ∧ (selectorRegister 0x05#8 = some .enable ∧ (3#32 : Word) ≠ 1#32 ∧ (3#32 : Word) ≠ 2#32)
    ∧ RegName.con ≠ .enStatus ∧ RegName.con ≠ .rxflr ∧ RegName.con ≠ .dataCmd := by decide

/-- An instruction that raises, a host step that raises, an engine step that raises, and a recorded fault. -/
theorem test_witness_FaultIsRecordedAndNothingElse :
    (ready.out.fault = none ∧ ∃ t, exec .rDataCmd ready = .next t ∧ t.out.fault ≠ none)
    ∧ (∃ t, step ready = .next t ∧ t.out.fault ≠ none)
    ∧ (∃ t, step (atTurn (.engine .takeRead) { withQueues .idle [.rd] [] with
        ctl := { ready.ctl with con := .unwritten, cmdFifo := [.rd] } }) = .next t ∧ t.out.fault ≠ none)
    ∧ (recorded (some (.rxUnderflow, .reg .dataCmd)) none ready).out.fault = some (.rxUnderflow, .reg .dataCmd)
    ∧ (recorded (some (.rxUnderflow, .reg .dataCmd)) none ready).out.refused = none :=
  ⟨⟨rfl, _, rfl, by decide⟩, ⟨_, rfl, by decide⟩, ⟨_, rfl, by decide⟩, rfl, rfl⟩

theorem test_witness_RefusalIsRecordedAndNothingElse :
    (ready.out.refused = none ∧ ∃ t, exec (.wri 0x13#8 0#32) ready = .next t ∧ t.out.refused ≠ none)
    ∧ (∃ t, step (withProg [0] ready) = .next t ∧ t.out.refused ≠ none)
    ∧ (let s := recorded none (some (.unmappedRegister, .selector 0x13#8)) ready;
      s.out.refused = some (.unmappedRegister, .selector 0x13#8) ∧ s.out.fault = none) :=
  ⟨⟨rfl, _, rfl, by decide⟩, ⟨_, rfl, by decide⟩, rfl, rfl⟩

theorem test_witness_OnlyTheDestinationVariableChanges :
    destVar (.movi 1 7#32) ≠ some 2 ∧ (after (exec (.movi 1 7#32) ready)).map (fun t => t.host.vars[2]) = some .unwritten
    ∧ destVar (.wri 0x05#8 1#32) ≠ some 0 := by decide

theorem test_witness_EachFamilyLeavesTheOthersStateAlone :
    (reachesWindow (.sleep 1#32) = false ∧ ∃ t, exec (.sleep 1#32) ready = .next t)
    ∧ (Instr.wEnableOff.isBus = true ∧ ∃ t, exec .wEnableOff ready = .next t) := ⟨⟨rfl, _, rfl⟩, rfl, _, rfl⟩

theorem test_witness_StatementsMoveToTheNext :
    (ready.out = { fault := none, refused := none } ∧ Instr.txb.isBus = false
      ∧ ∃ t, exec .txb ready = .next t ∧ t.out = ready.out ∧ t.host.inTxn ≠ ready.host.inTxn)
    ∧ ∃ t, exec .halt ready = .next t ∧ t.host.halted ≠ ready.host.halted :=
  ⟨⟨rfl, rfl, _, rfl, by decide, by decide⟩, _, rfl, by decide⟩

theorem test_witness_InstructionsLeaveTheEngineAlone :
    (∃ t, exec (.wDataCmdData 8#8) ready = .next t ∧ t.ctl.cmdFifo = ready.ctl.cmdFifo ++ [.wr 8#8 false])
    ∧ ∃ t, exec .rDataCmd (withQueues .idle [] [0x10#8]) = .next t ∧ [0x10#8] = 0x10#8 :: t.ctl.rxFifo :=
  ⟨⟨_, rfl, by decide⟩, _, rfl, by decide⟩

/-- Each guard met, and the stop held back by an open bracket. -/
theorem test_witness_EngineGuards :
    (withEnable true false).engineEnabled .enableSync = true ∧ (withEnable false true).engineEnabled .disableSync = true
    ∧ (withQueues .idle [.wr 1#8 true] []).engineEnabled .takeStart = true
    ∧ (withQueues .idle [.wr 1#8 false] []).engineEnabled .takeData = true
    ∧ (withQueues .idle [.rd] []).engineEnabled .takeRead = true ∧ (withQueues .write [] []).engineEnabled .stop = true
    ∧ (latched [.rd]).engineEnabled .discard = true ∧ ready.engineEnabled .stop = false
    ∧ Params.default.gapModel = .free ∧ ready.cfg.gapModel = .bracketed := by decide

theorem test_witness_SyncStopAndDiscard :
    ((withEnable true false).ctl.enReq = true ∧ (withEnable true false).ctl.enStatus = false)
    ∧ ((withEnable false true).ctl.enReq = false ∧ (withEnable false true).ctl.enStatus = true)
    ∧ (let s := withQueues .read [] [];
      s.ctl.enStatus = true ∧ s.ctl.cmdFifo = [] ∧ s.ctl.phase ≠ .idle ∧ s.gapHeld = false)
    ∧ ((latched [.rd]).ctl.enStatus = true ∧ (latched [.rd]).ctl.abortLatch = true
      ∧ (latched [.rd]).ctl.cmdFifo = .rd :: []) := by decide

/-- An entry to take, configured and not, with the acknowledgement assured and not. -/
theorem test_witness_TakingAnEntry (e : CmdEntry) (p : Phase) :
    let s := withQueues p [e] []
    s.ctl.enStatus = true ∧ s.ctl.abortLatch = false ∧ s.ctl.cmdFifo = e :: [] ∧ s.cfgReady = true
    ∧ s.ctl.tar = .written 0x53#7 ∧ s.ackAssured 0x53#7 = true ∧ (unrouted s).ackAssured 0x53#7 = false
    ∧ s.env.acks = [] ∧ s.env.rxBytes = [] ∧ s.ctl.rxFifo.length ≠ s.cfg.rxDepth
    ∧ ({ s with ctl := { s.ctl with hcnt := .unwritten } } : State).cfgReady = false := by
  exact ⟨rfl, rfl, rfl, rfl, rfl, rfl, rfl, rfl, rfl, Nat.ne_of_lt (show 0 < 64 by decide), rfl⟩

theorem test_witness_EngineFaults :
    (let s := { withQueues .idle [.rd] [] with ctl := { ready.ctl with cmdFifo := [.rd], lcnt := .unwritten } };
      s.engineEnabled .takeRead = true ∧ s.cfgReady = false ∧ s.ctl.lcnt = .unwritten)
    ∧ (let s := { withQueues .read [.rd] [1#8] with cfg := { vectorParams with rxDepth := 1 } };
      s.engineEnabled .takeRead = true ∧ s.cfgReady = true ∧ s.ctl.rxFifo.length = s.cfg.rxDepth) := by decide

theorem test_witness_AcknowledgementIsFreeUnlessAssumed :
    (ready.cfg.assumeAck = true ∧ ready.muxRouted = true ∧ 0x53#7 = ready.cfg.accelAddr7)
    ∧ Params.default.assumeAck = false ∧ (unrouted ready).muxRouted = false ∧ 0x52#7 ≠ ready.cfg.accelAddr7
    ∧ ready.env.acks = [] ∧ (answering [false] [] ready).env.acks = false :: [] := by decide

theorem test_witness_WhichEngineStepsAreOpen :
    ((withEnable true false).ctl.enStatus = false ∧ (withEnable true false).engineEnabled .enableSync = true)
    ∧ (let s := { withQueues .idle [.rd] [] with ctl := { ready.ctl with cmdFifo := [.rd], enReq := false } };
      s.ctl.enStatus = true ∧ s.ctl.cmdFifo ≠ [] ∧ s.engineEnabled .takeRead = true
      ∧ s.engineEnabled .disableSync = true) := by decide

theorem test_witness_EngineIgnoresTheCounts :
    ready.ctl.hcnt = .written 90#16 ∧ ready.ctl.lcnt = .written 160#16 := by decide

theorem test_witness_StepRunsTheDecodedStatement :
    let s := withProg [0x3F00000000000000#64] ready
    s.HostTakesStatement ∧ s.prog[s.host.pc]? = some 0x3F00000000000000#64
    ∧ decodeHost 0x3F00000000000000#64 = .ok .halt := by decide

theorem test_witness_StepRunsTheDecodedAccess :
    let s := { ready with env := { ready.env with accesses := [.bus (.read .i2c 39), .phys ⟨1, 0, none⟩] } }
    s.out.fault = none ∧ s.out.refused = none ∧ s.turn = .host ∧ s.host.halted = false
    ∧ decodeHostAccess s.cfg (.bus (.read .i2c 39)) = .ok .rEnStatus
    ∧ decodeHostAccess s.cfg (.phys ⟨1, 0, none⟩) = .error (.badWidthOrAddress, .access 1 0) := by decide

theorem test_witness_StepOfEachAgent :
    (let s := atTurn (.engine .takeRead) (withQueues .idle [.rd] []);
      s.out.fault = none ∧ s.out.refused = none ∧ s.engineHasStep = true ∧ s.turn = .engine .takeRead)
    ∧ (ready.HostTakesStatement ∧ ready.prog.length ≤ ready.host.pc)
    ∧ (let s := { withQueues .idle [.rd] [] with host := { ready.host with halted := true } };
      s.engineHasStep = true ∧ s.turn = .host ∧ s.host.halted = true)
    ∧ (let s := { ready with host := { ready.host with halted := true } };
      s.host.halted = true ∧ s.engineHasStep = false) := by decide

theorem test_witness_ResetMeetsTheInvariants : State.reset.ResetLaunch := by decide

/-- States with the invariants, and steps from them: of the host and of the engine. -/
theorem test_witness_StepKeepsTheInvariants :
    (let s := withProg [0x0100000200000100#64] ready;
      s.Inv ∧ s.Framed ∧ s.RegsAdmitted ∧ ∃ t, step s = .next t ∧ t.ctl.cmdFifo = [.rd])
    ∧ (let s := atTurn (.engine .takeStart) (withQueues .idle [.wr 0x32#8 true] []);
      s.Inv ∧ s.Framed ∧ s.RegsAdmitted ∧ ∃ t, step s = .next t ∧ t.ctl.phase = .write) :=
  ⟨⟨by decide, by decide, by decide, _, rfl, by decide⟩, by decide, by decide, by decide, _, rfl, by decide⟩

/-- Both launches, and a state a step after one. -/
theorem test_witness_ReachableStatesMeetTheInvariant :
    Reaches State.AnyLaunch State.reset ∧ (withQueues .write [.rd] [1#8]).AnyLaunch
    ∧ ∃ t, Reaches State.AnyLaunch t ∧ t.out.fault ≠ none :=
  ⟨.start _ (by decide), by decide, _, .next State.reset _ (.start _ (by decide)) ⟨.host, [], [], rfl⟩, by decide⟩

theorem test_witness_BusLogOnlyGrows :
    (∃ t, step (atTurn (.engine .stop) (withQueues .write [] [])) = .next t ∧ t.ctl.busLog = [] ++ [.stop])
    ∧ (ready.turn = .host ∧ ∃ t, step ready = .next t) := ⟨⟨_, rfl, by decide⟩, rfl, _, rfl⟩

/-- Each way a step treats a FIFO, the missing acknowledgement of an address with two entries pending among them. -/
theorem test_witness_FifosKeepOrder :
    (∃ t, step (withProg [0x0100000200000100#64] ready) = .next t ∧ t.ctl.cmdFifo = [] ++ [.rd])
    ∧ (∃ t, step (atTurn (.engine .discard) (latched [.rd])) = .next t ∧ [CmdEntry.rd] = .rd :: t.ctl.cmdFifo)
    ∧ (∃ t, step (atTurn (.engine .takeStart) (answering [false] [] (withQueues .idle [.wr 0x32#8 true, .rd] []))) = .next t
      ∧ ready.ctl.abortLatch = false ∧ t.ctl.cmdFifo = [] ∧ t.ctl.abortLatch = true)
    ∧ ∃ t, step (atTurn (.engine .disableSync) { withQueues .read [.rd] [1#8] with
        ctl := { ready.ctl with enReq := false, phase := .read, cmdFifo := [.rd], rxFifo := [1#8] } }) = .next t
      ∧ t.ctl.cmdFifo = [] ∧ t.ctl.rxFifo = [] ∧ t.ctl.enStatus = false :=
  ⟨⟨_, rfl, by decide⟩, ⟨_, rfl, by decide⟩, ⟨_, rfl, rfl, by decide, by decide⟩, _, rfl, by decide, by decide, by decide⟩

theorem test_witness_ConfigurationIsLockedWhileEnabled :
    (ready.cfgLocked = true ∧ ∃ t, step (withProg [0x0100000000000065#64] ready) = .next t ∧ t.ctl.con = ready.ctl.con)
    ∧ (withEnable true false).cfgLocked = true := ⟨⟨rfl, _, rfl, by decide⟩, rfl⟩

theorem test_witness_OnlySyncStepsChangeStatus :
    (∃ t, step (atTurn (.engine .enableSync) (withEnable true false)) = .next t ∧ t.ctl.enStatus ≠ false)
    ∧ (∃ t, step (atTurn (.engine .disableSync)
        { withEnable false true with ctl := { (withEnable false true).ctl with abortLatch := true } }) = .next t
      ∧ t.ctl.enStatus ≠ true ∧ t.ctl.abortLatch = false) :=
  ⟨⟨_, rfl, by decide⟩, _, rfl, by decide, by decide⟩

end Sys2Proof.Machine.Tests
end

section
/-! PROOFS of the encoding family (30_encoding.md): the command/data value (R104), illegal host words (R115), the
selectors (R113). -/

namespace Sys2Proof

open Machine

/-! ### The three forms of a command/data value (R104) -/

/-- The start bit stands above the byte and the read bit and inside the word (R11). -/
theorem Params.startBit_bounds {P : Params} (h : P.wf = true) : 9 ≤ P.startBit ∧ P.startBit ≤ 31 := by
  simp only [Params.wf, Bool.and_eq_true, decide_eq_true_eq] at h
  obtain ⟨⟨⟨⟨⟨-, hlo⟩, hhi⟩, -⟩, -⟩, -⟩ := h
  exact ⟨hlo, hhi⟩

theorem Params.getLsbD_startFlag (P : Params) {i : Nat} (hi : i < 32) :
    P.startFlag.getLsbD i = decide (i = P.startBit) := by
  have h : P.startFlag = BitVec.twoPow 32 P.startBit := rfl
  rw [h, BitVec.getLsbD_twoPow, Bool.eq_iff_iff]
  simp only [Bool.and_eq_true, decide_eq_true_eq]
  omega

theorem getLsbD_readToken (i : Nat) : readToken.getLsbD i = decide (i = 8) := by
  have h : readToken = BitVec.twoPow 32 8 := rfl
  rw [h, BitVec.getLsbD_twoPow]
  simp [eq_comm]

/-- The mask of the byte and the read bit, which R104's `rest` leaves out beside the start bit. -/
theorem getLsbD_byteAndRead (i : Nat) : (0x1FF#32).getLsbD i = decide (i < 9) := by
  have h : 0x1FF#32 = (BitVec.allOnes 9).setWidth 32 := rfl
  rw [h, BitVec.getLsbD_setWidth, BitVec.getLsbD_allOnes, Bool.eq_iff_iff]
  simp only [Bool.and_eq_true, decide_eq_true_eq]
  omega

theorem Params.cmdRest_eq_zero_iff (P : Params) (v : Word) :
    P.cmdRest v = 0#32 ↔ ∀ i, i < 32 → 9 ≤ i → i ≠ P.startBit → v.getLsbD i = false := by
  have hbit : ∀ i, i < 32 →
      (P.cmdRest v).getLsbD i = (v.getLsbD i && !(decide (i < 9) || decide (i = P.startBit))) := by
    intro i hi
    rw [Params.cmdRest, BitVec.getLsbD_and, BitVec.getLsbD_not, BitVec.getLsbD_or, getLsbD_byteAndRead,
      P.getLsbD_startFlag hi, decide_eq_true hi, Bool.true_and]
  constructor
  · intro h i hi h9 hs
    have := hbit i hi
    rw [h] at this
    simpa [hs, Nat.not_lt.mpr h9] using this.symm
  · intro h
    refine BitVec.eq_of_getLsbD_eq fun i hi => ?_
    rw [hbit i hi, BitVec.getLsbD_zero]
    by_cases h9 : i < 9
    · simp [h9]
    · by_cases hs : i = P.startBit
      · simp [hs]
      · simp [h i hi (by omega) hs]

/-- The value with the three fields of R104: the byte, the read bit and the start bit; every other bit is 0. -/
def Params.cmdValue (P : Params) (b : Byte) (read start : Bool) : Word :=
  b.setWidth 32 ||| (if read then readToken else 0#32) ||| (if start then P.startFlag else 0#32)

theorem Params.cmdValue_start (P : Params) (a : Byte) : P.cmdValue a false true = a.setWidth 32 ||| P.startFlag := by
  simp [Params.cmdValue]

theorem Params.cmdValue_data (P : Params) (d : Byte) : P.cmdValue d false false = d.setWidth 32 := by
  simp [Params.cmdValue]

theorem Params.cmdValue_read (P : Params) : P.cmdValue 0#8 true false = 0x100#32 := by
  simp [Params.cmdValue, readToken]

theorem Params.getLsbD_cmdValue (P : Params) (b : Byte) (read start : Bool) {i : Nat} (hi : i < 32) :
    (P.cmdValue b read start).getLsbD i
      = (b.getLsbD i || (read && decide (i = 8)) || (start && decide (i = P.startBit))) := by
  have hread : (if read then readToken else 0#32).getLsbD i = (read && decide (i = 8)) := by
    cases read
    · simp
    · simpa using getLsbD_readToken i
  have hstart : (if start then P.startFlag else 0#32).getLsbD i = (start && decide (i = P.startBit)) := by
    cases start
    · simp
    · simpa using P.getLsbD_startFlag hi
  rw [Params.cmdValue, BitVec.getLsbD_or, BitVec.getLsbD_or, hread, hstart, BitVec.getLsbD_setWidth,
    decide_eq_true hi, Bool.true_and]

theorem Params.cmdRest_cmdValue (P : Params) (b : Byte) (read start : Bool) :
    P.cmdRest (P.cmdValue b read start) = 0#32 := by
  rw [Params.cmdRest_eq_zero_iff]
  intro i hi h9 hs
  rw [P.getLsbD_cmdValue b read start hi]
  simp [hs, show 8 ≤ i by omega, show i ≠ 8 by omega]

/-- A value without other bits is made of its three fields. -/
theorem Params.cmdValue_fields {P : Params} {v : Word} (hrest : P.cmdRest v = 0#32) :
    P.cmdValue (v.extractLsb' 0 8) (v.getLsbD 8) (v.getLsbD P.startBit) = v := by
  rw [Params.cmdRest_eq_zero_iff] at hrest
  refine BitVec.eq_of_getLsbD_eq fun i hi => ?_
  rw [P.getLsbD_cmdValue _ _ _ hi, BitVec.getLsbD_extractLsb', Nat.zero_add]
  by_cases hs : i = P.startBit
  · subst hs
    by_cases h8 : P.startBit = 8
    · simp [h8]
    · cases v.getLsbD P.startBit <;> simp [h8]
  · by_cases h8 : i = 8
    · subst h8
      simp [hs]
    · by_cases hlt : i < 8
      · simp [hlt, h8, hs]
      · simp [hlt, h8, hs, hrest i hi (by omega) hs]

section Fields
variable {P : Params} (h : P.wf = true) (b : Byte) (read start : Bool)
include h

theorem Params.cmdValue_byte : (P.cmdValue b read start).extractLsb' 0 8 = b := by
  obtain ⟨hlo, -⟩ := Params.startBit_bounds h
  refine BitVec.eq_of_getLsbD_eq fun i hi => ?_
  rw [BitVec.getLsbD_extractLsb', Nat.zero_add, P.getLsbD_cmdValue b read start (by omega)]
  simp [hi, show i ≠ 8 by omega, show i ≠ P.startBit by omega]

theorem Params.cmdValue_readBit : (P.cmdValue b read start).getLsbD 8 = read := by
  obtain ⟨hlo, -⟩ := Params.startBit_bounds h
  rw [P.getLsbD_cmdValue b read start (by omega)]
  simp [show 8 ≠ P.startBit by omega]

theorem Params.cmdValue_startBit : (P.cmdValue b read start).getLsbD P.startBit = start := by
  obtain ⟨hlo, hhi⟩ := Params.startBit_bounds h
  rw [P.getLsbD_cmdValue b read start (by omega)]
  simp [show P.startBit ≠ 8 by omega, show 8 ≤ P.startBit by omega]

/-- The decoder's answer for a value made of its three fields. -/
theorem decodeCmd_cmdValue (hf : read = true → start = false ∧ b = 0#8) :
    decodeCmd P (P.cmdValue b read start)
      = .ok (if read then .read else if start then .start b else .data b) := by
  simp only [decodeCmd, Params.cmdRest_cmdValue, Params.cmdValue_byte h, Params.cmdValue_readBit h,
    Params.cmdValue_startBit h]
  cases read
  · cases start <;> simp
  · simp [hf rfl]

end Fields

/-- What `decodeCmd` admits: a value of one of the three forms. -/
theorem decodeCmd_eq_ok {P : Params} {v : Word} {f : WriteForm} (h : decodeCmd P v = .ok f) :
    (∃ a : Byte, f = .start a ∧ v = a.setWidth 32 ||| P.startFlag) ∨ (∃ d : Byte, f = .data d ∧ v = d.setWidth 32)
      ∨ (f = .read ∧ v = 0x100#32) := by
  unfold decodeCmd at h
  split at h
  · cases h
  · rename_i hrest
    have hv := Params.cmdValue_fields (not_not.mp hrest)
    split at h
    · rename_i hbits
      obtain ⟨h8, hs⟩ := hbits
      rw [h8, hs, Params.cmdValue_start] at hv
      exact .inl ⟨_, (Except.ok.inj h).symm, hv.symm⟩
    · split at h
      · rename_i hbits
        obtain ⟨h8, hs⟩ := hbits
        rw [h8, hs, Params.cmdValue_data] at hv
        exact .inr (.inl ⟨_, (Except.ok.inj h).symm, hv.symm⟩)
      · split at h
        · rename_i hdata hbits
          obtain ⟨hs, hb⟩ := hbits
          have h8 : v.getLsbD 8 = true := by simpa [hs] using hdata
          rw [h8, hs, hb, Params.cmdValue_read] at hv
          exact .inr (.inr ⟨(Except.ok.inj h).symm, hv.symm⟩)
        · cases h

theorem decodeCmd_start {P : Params} (h : P.wf = true) (a : Byte) :
    decodeCmd P (a.setWidth 32 ||| P.startFlag) = .ok (.start a) := by
  rw [← Params.cmdValue_start, decodeCmd_cmdValue h _ _ _ (by simp)]
  rfl

theorem decodeCmd_data {P : Params} (h : P.wf = true) (d : Byte) : decodeCmd P (d.setWidth 32) = .ok (.data d) := by
  rw [← Params.cmdValue_data P, decodeCmd_cmdValue h _ _ _ (by simp)]
  rfl

theorem decodeCmd_read {P : Params} (h : P.wf = true) : decodeCmd P 0x100#32 = .ok .read := by
  rw [← Params.cmdValue_read P, decodeCmd_cmdValue h _ _ _ (by simp)]
  rfl

/-- Settles O5: each form decodes from its own value (`decodeCmd_start`, `decodeCmd_data`, `decodeCmd_read`), and
`decodeCmd_eq_ok` says that nothing else decodes. -/
theorem commandDataValueHasThreeForms : Obligations.CommandDataValueHasThreeForms := by
  intro P v hwf
  refine ⟨fun a => ⟨fun h => ?_, ?_⟩, fun d => ⟨fun h => ?_, ?_⟩, ⟨fun h => ?_, ?_⟩, fun hstart hdata hread => ?_⟩
  · simpa using decodeCmd_eq_ok h
  · rintro rfl
    exact decodeCmd_start hwf a
  · simpa using decodeCmd_eq_ok h
  · rintro rfl
    exact decodeCmd_data hwf d
  · simpa using decodeCmd_eq_ok h
  · rintro rfl
    exact decodeCmd_read hwf
  · cases hv : decodeCmd P v with
    | error e => rw [decodeCmd_error hv]
    | ok f =>
      obtain ⟨a, -, ha⟩ | ⟨d, -, hd⟩ | ⟨-, hr⟩ := decodeCmd_eq_ok hv
      · exact absurd ha (hstart a)
      · exact absurd hd (hdata d)
      · exact absurd hr hread

/-! ### Illegal host words (R115) -/

/-- A rejected host word is rejected with X1 and the word. -/
theorem decodeHost_error {w : HostWord} {e : Rejection} (h : decodeHost w = .error e) :
    e = (.undecodableHostWord, .hostWord w) := by
  unfold decodeHost at h
  split at h
  · exact (Except.error.inj h).symm
  · split at h
    · cases h
    · exact (Except.error.inj h).symm

/-- R112's operand columns, as `IllegalWord` and as the decoder have them. -/
theorem opcodeUses_byte (o : HostOp) : opcodeUses o.byte = some o.uses := by cases o <;> rfl

/-- A word whose opcode is listed and whose unused fields are 0 is illegal only as a shift by more than 31. -/
theorem illegalWord_of_unusedZero {o : HostOp} {w : HostWord} (hop : fieldOp w = o.byte)
    (hu : unusedZero o.uses w = true) (h : IllegalWord w) : o = .shli ∧ 31 < (fieldImm w).toNat := by
  simp only [unusedZero, Bool.and_eq_true, Bool.or_eq_true, beq_iff_eq] at hu
  obtain ⟨⟨⟨⟨⟨hd, hs⟩, ht⟩, hz⟩, hsel⟩, himm⟩ := hu
  rw [IllegalWord, hop, opcodeUses_byte] at h
  obtain hnone | ⟨u, hsome, hfield⟩ | hz' | ⟨hshli, himm'⟩ := h
  · cases hnone
  · cases hsome
    obtain ⟨hno, hf⟩ | ⟨hno, hf⟩ | ⟨hno, hf⟩ | ⟨hno, hf⟩ | ⟨hno, hf⟩ := hfield
    · exact absurd (hd.resolve_left (ne_true_of_eq_false hno)) hf
    · exact absurd (hs.resolve_left (ne_true_of_eq_false hno)) hf
    · exact absurd (ht.resolve_left (ne_true_of_eq_false hno)) hf
    · exact absurd (hsel.resolve_left (ne_true_of_eq_false hno)) hf
    · exact absurd (himm.resolve_left (ne_true_of_eq_false hno)) hf
  · exact absurd hz hz'
  · have ho : some o = some .shli := by rw [← hostOp_byte o, hshli]; rfl
    exact ⟨Option.some.inj ho, himm'⟩

theorem decodeHost_ne_ok_of_illegalWord {w : HostWord} (h : IllegalWord w) (i : Instr) : decodeHost w ≠ .ok i := by
  intro hok
  obtain ⟨o, hop, hu, rfl, hwf⟩ := decodeHost_eq_ok hok
  obtain ⟨rfl, himm⟩ := illegalWord_of_unusedZero hop hu h
  have hle : (fieldImm w).toNat ≤ 31 := of_decide_eq_true hwf
  omega

theorem decodeHost_of_illegalWord {w : HostWord} (h : IllegalWord w) :
    decodeHost w = .error (.undecodableHostWord, .hostWord w) := by
  cases hd : decodeHost w with
  | ok i => exact absurd hd (decodeHost_ne_ok_of_illegalWord h i)
  | error e => rw [decodeHost_error hd]

/-- A step of the host that fetches a word the decoder rejects records the rejection and takes the turn (R243). -/
theorem step_of_decodeHost_error {s : State} (hs : s.HostTakesStatement)
    {w : HostWord} {e : Rejection} (hw : s.prog[s.host.pc]? = some w) (he : decodeHost w = .error e) :
    step s = .next (s.takeTurn.refuse e.1 e.2) := by
  obtain ⟨hfault, hrefused, hturn, haccesses, hhalted⟩ := hs
  have hstep : s.hostHasStep = true := by simp [State.hostHasStep, hhalted]
  have hnext : s.takeTurn.nextInstr = .refuse e.1 e.2 := by
    simp [State.nextInstr, State.fetch, haccesses, hw, he]
  rw [step_host hfault hrefused hstep hturn]
  simp [hostStep, hstep, hnext]

/-- Settles O3: an illegal word does not decode (`decodeHost_of_illegalWord`), and a host step records what the
decoder answers. -/
theorem illegalHostWordsAreRefusedWhenFetched : Obligations.IllegalHostWordsAreRefusedWhenFetched := by
  intro w hw
  have hd := decodeHost_of_illegalWord hw
  exact ⟨.hostWord w, hd, fun s hs hfetch => step_of_decodeHost_error hs hfetch hd⟩

/-! ### Selectors (R113) -/

theorem selectorRegister_selector (r : RegName) : selectorRegister r.selector = some r := by cases r <;> rfl

/-- The table of R113: the selector, the register, its window and its offset. -/
def selectorTable (P : Params) : List (Byte × RegName × Window × Nat) :=
  RegName.all.map fun r => (r.selector, r, r.window, P.offset r)

theorem selectorTable_row {P : Params} {x : Byte × RegName × Window × Nat} (h : x ∈ selectorTable P) :
    selectorRegister x.1 = some x.2.1 ∧ x.2.1.window = x.2.2.1 ∧ P.offset x.2.1 = x.2.2.2 := by
  obtain ⟨r, -, rfl⟩ := List.mem_map.mp h
  exact ⟨selectorRegister_selector r, rfl, rfl⟩

/-- R113 leaves the selectors between the windows and above the second one to no register. -/
theorem selectorRegister_eq_none {sel : Byte} (h : 0x08#8 ≤ sel ∧ sel ≤ 0x0F#8 ∨ 0x13#8 ≤ sel) :
    selectorRegister sel = none := by
  refine List.find?_eq_none.mpr fun r _ hr => ?_
  obtain rfl : r.selector = sel := by simpa using hr
  revert h
  cases r <;> decide

section Unmapped
variable {sel : Byte} (h : selectorRegister sel = none)
include h

/-- A host write at a selector that names no register is X2, whatever it would write. -/
theorem Machine.hostWrite_unmapped (d : Params → RegName → Word → Except Rejection WriteForm) (v : State → Access Word)
    (s : State) : hostWrite d sel v s = .refuse .unmappedRegister (.selector sel) := by
  simp [hostWrite, readSelector_none h]

/-- A host read at a selector that names no register is X2. -/
theorem Machine.hostRead_unmapped (vd : VarIx) (s : State) :
    hostRead vd sel s = .refuse .unmappedRegister (.selector sel) := by
  simp [hostRead, readSelector_none h]

end Unmapped

/-- Settles O10: the eleven rows are `selectorTable`; every other selector names no register, and each statement asks
for its register first. -/
theorem selectorsNameTheirRegisters : Obligations.SelectorsNameTheirRegisters := by
  refine ⟨fun P x hx => selectorTable_row (P := P) hx, fun sel hsel s imm v => ?_⟩
  have h := selectorRegister_eq_none hsel
  exact ⟨.selector sel, congrArg (finish s) (hostWrite_unmapped h _ _ s),
    congrArg (finish s) (hostWrite_unmapped h _ _ s), congrArg (finish s) (hostRead_unmapped h v s)⟩

end Sys2Proof
end

section
/-! PROOFS of the register-access family (40_register_access.md): refused offsets (R148), refused reads (R147), refused
write values (R146). -/

namespace Sys2Proof

/-! ### Offsets (R148) -/

/-- An offset of no register of its window is found to be no register's. -/
theorem Params.registerAt_eq_none {P : Params} {w : Window} {off : Nat}
    (h : ∀ r : RegName, r.window = w → P.offset r ≠ off) : P.registerAt w off = none :=
  List.find?_eq_none.mpr fun r _ hr => by
    obtain ⟨hw, hoff⟩ := of_decide_eq_true hr
    exact h r hw hoff

section BusOperation
variable {P : Params} {w : Window} {off : Nat}

theorem decodeBus_read_of_registerAt_none (h : P.registerAt w off = none) :
    decodeBus P (.read w off) = .error (.unmappedRegister, .offset w off) := by
  simp only [decodeBus, h]

theorem decodeBus_write_of_registerAt_none (h : P.registerAt w off = none) (v : Word) :
    decodeBus P (.write w off v) = .error (.unmappedRegister, .offset w off) := by
  simp only [decodeBus, h]

variable {r : RegName}

theorem decodeBus_read_of_registerAt (h : P.registerAt w off = some r) :
    decodeBus P (.read w off) = decodeAccess P r none := by
  simp only [decodeBus, h]

theorem decodeBus_write_of_registerAt (h : P.registerAt w off = some r) (v : Word) :
    decodeBus P (.write w off v) = decodeAccess P r (some v) := by
  simp only [decodeBus, h]

end BusOperation

/-- Settles O6: what `registerAt` answers decides the access, and R11 makes each register the one found at its own
offset. -/
theorem accessIsDecodedByItsOffset : Obligations.AccessIsDecodedByItsOffset := by
  refine ⟨fun P w off h => ?_, fun P r hwf => ?_⟩
  · have hnone := Params.registerAt_eq_none h
    exact ⟨_, decodeBus_read_of_registerAt_none hnone, decodeBus_write_of_registerAt_none hnone⟩
  · have hself := Params.registerAt_self hwf r
    exact ⟨decodeBus_read_of_registerAt hself, decodeBus_write_of_registerAt hself⟩

/-! ### Reads (R147, R103) -/

/-- A read of a register outside R103's table is X4 with the register. -/
theorem decodeRead_of_writeOnly {r : RegName} (hst : r ≠ .enStatus) (hrx : r ≠ .rxflr) (hcmd : r ≠ .dataCmd) :
    decodeRead r = .error (.unadmittedRead, .reg r) := by
  cases r with
  | enStatus => exact absurd rfl hst
  | rxflr => exact absurd rfl hrx
  | dataCmd => exact absurd rfl hcmd
  | con | tar | fsHcnt | fsLcnt | enable | usefpga | gpioA | gpioB => rfl

theorem decodeAccess_none_of_decodeRead_error {P : Params} {r : RegName} {e : Rejection}
    (h : decodeRead r = .error e) : decodeAccess P r none = .error e := by
  rw [decodeAccess, h]
  rfl

/-- Settles O7: the three registers of R103 decode to their instructions, and `decodeRead_of_writeOnly` refuses the
others. -/
theorem onlyThreeRegistersAreRead : Obligations.OnlyThreeRegistersAreRead := by
  intro P r
  refine ⟨.reg r, ?_⟩
  split_ifs with hst hrx hcmd
  · rw [hst]; rfl
  · rw [hrx]; rfl
  · rw [hcmd]; rfl
  · exact decodeAccess_none_of_decodeRead_error (decodeRead_of_writeOnly hst hrx hcmd)

/-! ### Write values (R146) -/

theorem decodeAccess_some_of_decodeWrite_error {P : Params} {r : RegName} {v : Word} {e : Rejection}
    (h : decodeWrite P r v = .error e) : decodeAccess P r (some v) = .error e := by
  rw [decodeAccess, h]
  rfl

/-- The bits from `k` up of a word that is at least `2^k` are not all 0. -/
theorem extractLsb'_ne_zero_of_two_pow_le {k n : Nat} {v : BitVec (k + n)} (h : 2 ^ k ≤ v.toNat) :
    v.extractLsb' k n ≠ 0#n := by
  intro h0
  have hdiv : v.toNat / 2 ^ k < 2 ^ n :=
    Nat.div_lt_of_lt_mul (by simpa [Nat.pow_add] using v.isLt)
  have hzero : v.toNat / 2 ^ k = 0 := by
    simpa [BitVec.extractLsb'_toNat, Nat.shiftRight_eq_div_pow, Nat.mod_eq_of_lt hdiv] using congrArg BitVec.toNat h0
  exact (Nat.div_pos h (Nat.two_pow_pos k)).ne' hzero

/-- The information R146's refusals record: the register and the value (R131 to R134), or the value alone for `DATA_CMD`
(R104). -/
def writeRefusalInfo (r : RegName) (v : Word) : Info :=
  match r with
  | .dataCmd => .value v
  | _ => .regValue r v

/-- R146's list: the registers and the values a write of them is refused for. -/
def UnadmittedWrite (P : Params) (r : RegName) (v : Word) : Prop :=
  (r = .con ∧ v ≠ P.conValue) ∨ (r = .tar ∧ 0x80 ≤ v.toNat) ∨ (r = .fsHcnt ∧ 0x10000 ≤ v.toNat)
    ∨ (r = .fsLcnt ∧ 0x10000 ≤ v.toNat) ∨ (r = .enable ∧ v ≠ 1#32 ∧ v ≠ 2#32)
    ∨ (r = .usefpga ∧ v ≠ 0#32) ∨ (r = .gpioA ∧ v ≠ 1#32) ∨ (r = .gpioB ∧ v ≠ 1#32)
    ∨ r = .rxflr ∨ r = .enStatus
    ∨ (r = .dataCmd ∧ (∀ a : Byte, v ≠ a.setWidth 32 ||| P.startFlag) ∧ (∀ d : Byte, v ≠ d.setWidth 32)
        ∧ v ≠ 0x100#32)

/-- Every write of R146's list fails the test its register's value is put to (R102, R104). -/
theorem decodeWrite_of_unadmittedWrite {P : Params} {r : RegName} {v : Word} (hwf : P.wf = true)
    (h : UnadmittedWrite P r v) : decodeWrite P r v = .error (.unadmittedWriteValue, writeRefusalInfo r v) := by
  obtain ⟨rfl, hv⟩ | ⟨rfl, hv⟩ | ⟨rfl, hv⟩ | ⟨rfl, hv⟩ | ⟨rfl, hon, hoff⟩ | ⟨rfl, hv⟩ | ⟨rfl, hv⟩ | ⟨rfl, hv⟩ | rfl | rfl |
    ⟨rfl, hstart, hdata, hread⟩ := h
  · exact if_neg hv
  · exact if_neg (extractLsb'_ne_zero_of_two_pow_le (k := 7) hv)
  · exact if_neg (extractLsb'_ne_zero_of_two_pow_le (k := 16) hv)
  · exact if_neg (extractLsb'_ne_zero_of_two_pow_le (k := 16) hv)
  · exact (if_neg hon).trans (if_neg hoff)
  · exact if_neg hv
  · exact if_neg hv
  · exact if_neg hv
  · rfl
  · rfl
  · obtain ⟨-, -, -, hnone⟩ := commandDataValueHasThreeForms P v hwf
    exact hnone hstart hdata hread

/-- Settles O8: `decodeWrite_of_unadmittedWrite` gives the refusal, and `writeRefusalInfo` is the information asked for
at each register. -/
theorem unadmittedWritesAreRefused : Obligations.UnadmittedWritesAreRefused := by
  intro P r v hwf h
  refine ⟨writeRefusalInfo r v, decodeAccess_some_of_decodeWrite_error (decodeWrite_of_unadmittedWrite hwf h), ?_, ?_⟩
  · rintro (rfl | rfl | rfl | rfl) <;> rfl
  · rintro rfl
    rfl

end Sys2Proof
end

section
/-! PROOFS of the bus-engine family (41_bus_engine.md): the two faults of taking an entry (R179, R180), the guards of the
engine's steps (R170, R188), the two syncs, the stop and the discard (R171, R172, R176, R178). -/

namespace Sys2Proof.Machine

/-! ### The guards (R170) -/

theorem State.engineRuns_iff {s : State} : s.engineRuns = true ↔ s.ctl.enStatus = true ∧ s.ctl.abortLatch = false := by
  simp [State.engineRuns]

section Guards
variable {s : State}

theorem State.engineEnabled_enableSync_iff :
    s.engineEnabled .enableSync = true ↔ s.ctl.enReq = true ∧ s.ctl.enStatus = false := by
  simp [State.engineEnabled]

theorem State.engineEnabled_disableSync_iff :
    s.engineEnabled .disableSync = true ↔ s.ctl.enReq = false ∧ s.ctl.enStatus = true := by
  simp [State.engineEnabled]

theorem State.engineEnabled_takeStart_iff :
    s.engineEnabled .takeStart = true ↔
      s.ctl.enStatus = true ∧ s.ctl.abortLatch = false ∧ ∃ a, s.ctl.cmdFifo.head? = some (.wr a true) := by
  rcases hq : s.ctl.cmdFifo with _ | ⟨⟨b, _ | _⟩ | _, rest⟩
  case cons.wr.true => simp [State.engineEnabled, hq, State.engineRuns_iff]
  all_goals simp [State.engineEnabled, hq]

theorem State.engineEnabled_takeData_iff :
    s.engineEnabled .takeData = true ↔
      s.ctl.enStatus = true ∧ s.ctl.abortLatch = false ∧ ∃ d, s.ctl.cmdFifo.head? = some (.wr d false) := by
  rcases hq : s.ctl.cmdFifo with _ | ⟨⟨d, _ | _⟩ | _, rest⟩
  case cons.wr.false => simp [State.engineEnabled, hq, State.engineRuns_iff]
  all_goals simp [State.engineEnabled, hq]

theorem State.engineEnabled_takeRead_iff :
    s.engineEnabled .takeRead = true ↔
      s.ctl.enStatus = true ∧ s.ctl.abortLatch = false ∧ s.ctl.cmdFifo.head? = some .rd := by
  rcases hq : s.ctl.cmdFifo with _ | ⟨_ | _, rest⟩
  case cons.rd => simp [State.engineEnabled, hq, State.engineRuns_iff]
  all_goals simp [State.engineEnabled, hq]

theorem State.engineEnabled_stop_iff :
    s.engineEnabled .stop = true ↔
      s.ctl.enStatus = true ∧ s.ctl.cmdFifo = [] ∧ s.ctl.phase ≠ .idle ∧ s.gapHeld = false := by
  simp [State.engineEnabled, and_assoc]

theorem State.engineEnabled_discard_iff :
    s.engineEnabled .discard = true ↔ s.ctl.enStatus = true ∧ s.ctl.abortLatch = true ∧ s.ctl.cmdFifo ≠ [] := by
  simp [State.engineEnabled, and_assoc]

theorem State.engineStep_of_enabled {e : EngineStep} (h : s.engineEnabled e = true) :
    s.engineStep e = s.engineEffect e := if_pos h

theorem State.engineStep_of_not_enabled {e : EngineStep} (h : s.engineEnabled e = false) : s.engineStep e = s :=
  if_neg (ne_true_of_eq_false h)

theorem State.gapHeld_free (h : s.cfg.gapModel = .free) : s.gapHeld = false := by
  rw [State.gapHeld, h]

theorem State.gapHeld_bracketed (h : s.cfg.gapModel = .bracketed) : s.gapHeld = s.host.inTxn := by
  rw [State.gapHeld, h]

end Guards

/-! ### Taking an entry: the tests before it (R173 to R175, R179, R180) -/

/-- R173: a START entry at the head of the FIFO is taken where the engine runs. -/
theorem State.engineStep_takeStart {s : State} {b : Byte} {rest : List CmdEntry} (hen : s.ctl.enStatus = true)
    (hab : s.ctl.abortLatch = false) (hq : s.ctl.cmdFifo = .wr b true :: rest) :
    s.engineStep .takeStart = s.takeStart b := by
  rw [State.engineStep_of_enabled (State.engineEnabled_takeStart_iff.mpr ⟨hen, hab, b, by rw [hq]; rfl⟩),
    State.engineEffect, hq]

/-- R174: a DATA entry at the head of the FIFO is taken where the engine runs. -/
theorem State.engineStep_takeData {s : State} {d : Byte} {rest : List CmdEntry} (hen : s.ctl.enStatus = true)
    (hab : s.ctl.abortLatch = false) (hq : s.ctl.cmdFifo = .wr d false :: rest) :
    s.engineStep .takeData = s.takeData d := by
  rw [State.engineStep_of_enabled (State.engineEnabled_takeData_iff.mpr ⟨hen, hab, d, by rw [hq]; rfl⟩),
    State.engineEffect, hq]

/-- A step that takes an entry begins with the configuration test (R179). -/
theorem State.engineStep_take_eq_configured {s : State} {e : EngineStep}
    (he : e = .takeStart ∨ e = .takeData ∨ e = .takeRead) (h : s.engineEnabled e = true) :
    ∃ k, s.engineStep e = s.configured k := by
  obtain rfl | rfl | rfl := he
  · obtain ⟨hen, hab, b, hhead⟩ := State.engineEnabled_takeStart_iff.mp h
    obtain ⟨rest, hq⟩ := List.head?_eq_some_iff.mp hhead
    exact ⟨_, State.engineStep_takeStart hen hab hq⟩
  · obtain ⟨hen, hab, d, hhead⟩ := State.engineEnabled_takeData_iff.mp h
    obtain ⟨rest, hq⟩ := List.head?_eq_some_iff.mp hhead
    exact ⟨_, State.engineStep_takeData hen hab hq⟩
  · exact ⟨_, State.engineStep_of_enabled h⟩

/-- A READ entry taken with the RX FIFO full is F6, once the configuration test is passed (R180). -/
theorem State.takeRead_of_full {s : State} (hr : s.cfgReady = true) (hfull : s.ctl.rxFifo.length = s.cfg.rxDepth) :
    s.takeRead = s.raise .rxOverflow (.depth s.cfg.rxDepth) := by
  obtain ⟨a, ha⟩ := State.tar_of_ready hr
  rw [State.takeRead, State.configured_ready hr ha, if_pos hfull]

/-- Settles O39: every step that takes an entry begins with the configuration test, which names the register
`cfgMissing` reports; the overflow test of a READ comes after it. -/
theorem engineFaults : Obligations.EngineFaults := by
  intro s
  refine ⟨fun e he hen hr => ?_, fun hen hr hfull => ?_⟩
  · obtain ⟨r, hm⟩ := State.cfgMissing_of_not_ready hr
    obtain ⟨k, hk⟩ := State.engineStep_take_eq_configured he hen
    exact ⟨r, State.cfgMissing_eq_some hm, hk.trans (State.configured_missing hm)⟩
  · exact (State.engineStep_of_enabled hen).trans (State.takeRead_of_full hr hfull)

/-- Settles O34: the guard of each step is its `engineEnabled_..._iff`. -/
theorem engineGuards : Obligations.EngineGuards := fun _ =>
  ⟨State.engineEnabled_enableSync_iff, State.engineEnabled_disableSync_iff, State.engineEnabled_takeStart_iff,
    State.engineEnabled_takeData_iff, State.engineEnabled_takeRead_iff, State.engineEnabled_stop_iff,
    State.engineEnabled_discard_iff, State.gapHeld_free, State.gapHeld_bracketed,
    fun _ => State.engineStep_of_not_enabled⟩

/-! ### The two syncs, the stop and the discard (R171, R172, R176, R178) -/

/-- R172: STOP is logged only for an open transaction. -/
theorem State.disableSync_eq (s : State) :
    s.disableSync = { s with ctl := { s.ctl with
      phase := .idle, cmdFifo := [], rxFifo := [], abortLatch := false, enStatus := false
      busLog := if s.ctl.phase = .idle then s.ctl.busLog else s.ctl.busLog ++ [.stop] } } := by
  unfold State.disableSync
  by_cases h : s.ctl.phase = .idle
  · rw [if_pos h, if_pos h]
  · rw [if_neg h, if_neg h]
    rfl

/-- Settles O35: each step's guard holds where it is asked for, so the step has its effect. -/
theorem syncStopAndDiscard : Obligations.SyncStopAndDiscard := by
  intro s
  refine ⟨fun hreq hen => ?_, fun hreq hen => ?_, fun hen hq hph hgap => ?_, fun e rest hen hab hq => ?_⟩
  · exact State.engineStep_of_enabled (State.engineEnabled_enableSync_iff.mpr ⟨hreq, hen⟩)
  · rw [State.engineStep_of_enabled (State.engineEnabled_disableSync_iff.mpr ⟨hreq, hen⟩)]
    exact s.disableSync_eq
  · exact State.engineStep_of_enabled (State.engineEnabled_stop_iff.mpr ⟨hen, hq, hph, hgap⟩)
  · have hne : s.ctl.cmdFifo ≠ [] := by rw [hq]; exact List.cons_ne_nil e rest
    rw [State.engineStep_of_enabled (State.engineEnabled_discard_iff.mpr ⟨hen, hab, hne⟩), State.engineEffect,
      State.popCmd, hq]
    rfl

end Sys2Proof.Machine
end

section
/-! PROOFS of the host-program family (43_host_program.md): the unwritten source (R244), the arithmetic with an immediate
and with two variables (R248 to R255), the control transfers (R256 to R260), the system statements (R261 to R263). -/

namespace Sys2Proof.Machine

/-! ### Encodings (R112) -/

/-- A packed word decodes to the instruction its opcode and fields spell, if each field R112 does not list for the opcode
was packed as 0. -/
theorem decodeHost_packHost_of_fields (o : HostOp) (d s t : VarIx) (sel : Byte) (imm : Word)
    (hunused : ((o.uses.d || d == 0) && (o.uses.s || s == 0) && (o.uses.t || t == 0)
      && (o.uses.sel || sel == 0#8) && (o.uses.imm || imm == 0#32)) = true)
    (hwf : (o.build d s t sel imm).wellFormed = true) :
    decodeHost (packHost o.byte d s t sel imm) = .ok (o.build d s t sel imm) :=
  decodeHost_packHost o d s t sel imm (by simpa [unusedZero] using hunused) hwf

/-- R114, R115: no word is a shift by more than 31. -/
theorem illegalWord_packHost_shli (d s t : VarIx) (sel : Byte) {imm : Word} (h : 31 < imm.toNat) :
    IllegalWord (packHost 0x15#8 d s t sel imm) :=
  .inr (.inr (.inr ⟨fieldOp_packHost .., by rwa [fieldImm_packHost]⟩))

/-! ### Source operands (R244) -/

section Sources
variable {s : State} {vs vt j : VarIx} {before after : List VarIx}

/-- The first unwritten variable of one source. -/
theorem State.readVar_of_first_unwritten (hsrc : [vs] = before ++ j :: after) (hj : s.host.vars[j] = .unwritten) :
    s.readVar vs = .fault .hostUnwrittenVar (.var j) := by
  obtain ⟨-, hcons⟩ | ⟨-, hnil⟩ := List.singleton_eq_append_iff.mp hsrc
  · obtain ⟨rfl, -⟩ := List.cons.inj hcons
    exact State.readVar_unwritten hj
  · cases hnil

/-- The first unwritten variable of two sources, `vs` read before `vt` (R301). -/
theorem State.readVars_of_first_unwritten (hsrc : [vs, vt] = before ++ j :: after)
    (hbefore : ∀ k ∈ before, s.host.vars[k] ≠ .unwritten) (hj : s.host.vars[j] = .unwritten) :
    s.readVars vs vt = .fault .hostUnwrittenVar (.var j) := by
  cases before with
  | nil =>
    obtain ⟨rfl, -⟩ := List.cons.inj hsrc
    rw [State.readVars, State.readVar_unwritten hj, Access.bind_fault]
  | cons k before =>
    obtain ⟨rfl, hrest⟩ := List.cons.inj hsrc
    cases hvs : s.host.vars[vs] with
    | unwritten => exact absurd hvs (hbefore vs List.mem_cons_self)
    | written a =>
      rw [State.readVars, State.readVar_written hvs, Access.bind_ok, State.readVar_of_first_unwritten hrest hj,
        Access.bind_fault]

end Sources

/-! ### The shared operations, by what their sources read -/

section Operations
variable {s : State} {vs vt : VarIx} {c : FaultCode} {info : Info} {a b : Word}

theorem aluImm_of_fault (h : s.readVar vs = .fault c info) (f : Word → Word → Word) (vd : VarIx) (imm : Word) :
    aluImm f vd vs imm s = .fault c info := by
  rw [aluImm, h, Access.map_fault]

theorem aluVar_of_fault (h : s.readVars vs vt = .fault c info) (f : Word → Word → Word) (vd : VarIx) :
    aluVar f vd vs vt s = .fault c info := by
  rw [aluVar, h, Access.map_fault]

theorem branch_of_fault (h : s.readVars vs vt = .fault c info) (cond : Word → Word → Bool) (target : Word) :
    branch cond vs vt target s = .fault c info := by
  rw [branch, h, Access.bind_fault]

theorem hostWrite_of_fault {sel : Byte} (hsel : selectorRegister sel ≠ none) {v : State → Access Word}
    (h : v s = .fault c info) (d : Params → RegName → Word → Except Rejection WriteForm) :
    hostWrite d sel v s = .fault c info := by
  obtain ⟨r, hr⟩ := Option.ne_none_iff_exists'.mp hsel
  rw [hostWrite, readSelector_some hr, Access.bind_ok, h, Access.bind_fault]

theorem aluImm_of_written (h : s.host.vars[vs] = .written a) (f : Word → Word → Word) (vd : VarIx) (imm : Word) :
    aluImm f vd vs imm s = .ok (s.setVar vd (f a imm)).advance := by
  rw [aluImm, State.readVar_written h, Access.map_ok]

theorem aluVar_of_written (hs : s.host.vars[vs] = .written a) (ht : s.host.vars[vt] = .written b)
    (f : Word → Word → Word) (vd : VarIx) : aluVar f vd vs vt s = .ok (s.setVar vd (f a b)).advance := by
  rw [aluVar, State.readVars_written hs ht, Access.map_ok]

theorem branch_of_written (hs : s.host.vars[vs] = .written a) (ht : s.host.vars[vt] = .written b)
    (cond : Word → Word → Bool) (target : Word) :
    branch cond vs vt target s = if cond a b then s.jumpTo target.toNat else .ok s.advance := by
  rw [branch, State.readVars_written hs ht, Access.bind_ok]

/-- A shift by at most 31 is an operation with an immediate like the others (R254). -/
theorem exec_shli_of_le {imm : Word} (h : imm.toNat ≤ 31) (vd vs : VarIx) (s : State) :
    exec (.shli vd vs imm) s = finish s (aluImm (fun x y => x <<< y.toNat) vd vs imm s) :=
  congrArg (finish s) (if_pos h)

end Operations

/-! ### The first unwritten source (R244) -/

/-- Settles O26: an instruction reads its sources before anything but its selector, so the fault of reading them is its
own. -/
theorem unwrittenSourceFaults : Obligations.UnwrittenSourceFaults := by
  intro i s before after j hwf hsel hsrc hbefore hj
  cases i
  case wrv sel vs =>
    exact congrArg (finish s)
      (hostWrite_of_fault (v := fun t => t.readVar vs) (hsel sel vs rfl) (State.readVar_of_first_unwritten hsrc hj) _)
  case addi | andi | ori =>
    exact congrArg (finish s) (aluImm_of_fault (State.readVar_of_first_unwritten hsrc hj) _ _ _)
  case shli =>
    rw [exec_shli_of_le (of_decide_eq_true hwf)]
    exact congrArg (finish s) (aluImm_of_fault (State.readVar_of_first_unwritten hsrc hj) _ _ _)
  case or | add =>
    exact congrArg (finish s) (aluVar_of_fault (State.readVars_of_first_unwritten hsrc hbefore hj) _ _)
  case beq | bne | bltu =>
    exact congrArg (finish s) (branch_of_fault (State.readVars_of_first_unwritten hsrc hbefore hj) _ _)
  -- every other instruction has no source
  all_goals exact absurd hsrc.symm (List.append_ne_nil_of_right_ne_nil before (List.cons_ne_nil j after))

section Faults
variable {i : Instr} {s : State} {vs vt : VarIx} (hwf : i.wellFormed = true) (hwrv : ∀ sel v, i ≠ .wrv sel v)
include hwf hwrv

/-- R244 where the first source is the unwritten one. -/
theorem exec_of_first_source_unwritten {rest : List VarIx} (hsrc : sourceVars i = vs :: rest)
    (h : s.host.vars[vs] = .unwritten) : exec i s = .next (s.raise .hostUnwrittenVar (.var vs)) :=
  unwrittenSourceFaults i s [] rest vs hwf (fun sel v hi => absurd hi (hwrv sel v)) hsrc
    (List.forall_mem_nil _) h

/-- R244 where the second source is the unwritten one. -/
theorem exec_of_second_source_unwritten (hsrc : sourceVars i = [vs, vt]) {a : Word}
    (hs : s.host.vars[vs] = .written a) (ht : s.host.vars[vt] = .unwritten) :
    exec i s = .next (s.raise .hostUnwrittenVar (.var vt)) := by
  have hwritten : s.host.vars[vs] ≠ .unwritten := by
    rw [hs]
    exact nofun
  exact unwrittenSourceFaults i s [vs] [] vt hwf (fun sel v hi => absurd hi (hwrv sel v)) hsrc
    (List.forall_mem_singleton.mpr hwritten) ht

end Faults

/-! ### Arithmetic (R248 to R255) -/

/-- R254: the model's shift is the product with a power of two modulo 2^32. -/
theorem shiftLeft_eq_ofNat (a : Word) (n : Nat) : a <<< n = BitVec.ofNat 32 (a.toNat * 2 ^ n) := by
  apply BitVec.eq_of_toNat_eq
  rw [BitVec.toNat_shiftLeft, Nat.shiftLeft_eq, BitVec.toNat_ofNat]

/-- Settles O21: `aluImm_of_written` for the results, O26 for F7, and `illegalWord_packHost_shli` for the shifts no word
stands for. -/
theorem immediateArithmetic : Obligations.ImmediateArithmetic := by
  intro s vd vs imm
  refine ⟨⟨?_, ?_, ?_, ?_, fun h => ?_, fun h => ?_⟩, rfl, fun a ha => ⟨?_, ?_, ?_, fun h => ?_⟩, fun hvs i hi => ?_⟩
  · exact decodeHost_packHost_of_fields .movi vd 0 0 0#8 imm rfl rfl
  · exact decodeHost_packHost_of_fields .addi vd vs 0 0#8 imm rfl rfl
  · exact decodeHost_packHost_of_fields .andi vd vs 0 0#8 imm rfl rfl
  · exact decodeHost_packHost_of_fields .ori vd vs 0 0#8 imm rfl rfl
  · exact decodeHost_packHost_of_fields .shli vd vs 0 0#8 imm rfl (decide_eq_true h)
  · exact ⟨_, decodeHost_of_illegalWord (illegalWord_packHost_shli vd vs 0 0#8 h)⟩
  · rw [← BitVec.add_def]
    exact congrArg (finish s) (aluImm_of_written ha _ vd imm)
  · exact congrArg (finish s) (aluImm_of_written ha _ vd imm)
  · exact congrArg (finish s) (aluImm_of_written ha _ vd imm)
  · rw [exec_shli_of_le h, ← shiftLeft_eq_ofNat]
    exact congrArg (finish s) (aluImm_of_written ha _ vd imm)
  · obtain rfl | rfl | rfl | ⟨rfl, himm⟩ := hi
    · exact exec_of_first_source_unwritten rfl nofun rfl hvs
    · exact exec_of_first_source_unwritten rfl nofun rfl hvs
    · exact exec_of_first_source_unwritten rfl nofun rfl hvs
    · exact exec_of_first_source_unwritten (decide_eq_true himm) nofun rfl hvs

/-- Settles O22: `aluVar_of_written` for the results and O26 for F7. -/
theorem variableArithmetic : Obligations.VariableArithmetic := by
  intro s vd vs vt
  refine ⟨⟨?_, ?_⟩, fun a b ha hb => ⟨?_, ?_⟩, fun hvs => ⟨?_, ?_⟩, fun a ha hvt => ⟨?_, ?_⟩⟩
  · exact decodeHost_packHost_of_fields .or vd vs vt 0#8 0#32 rfl rfl
  · exact decodeHost_packHost_of_fields .add vd vs vt 0#8 0#32 rfl rfl
  · exact congrArg (finish s) (aluVar_of_written ha hb _ vd)
  · rw [← BitVec.add_def]
    exact congrArg (finish s) (aluVar_of_written ha hb _ vd)
  · exact exec_of_first_source_unwritten rfl nofun rfl hvs
  · exact exec_of_first_source_unwritten rfl nofun rfl hvs
  · exact exec_of_second_source_unwritten rfl nofun rfl ha hvt
  · exact exec_of_second_source_unwritten rfl nofun rfl ha hvt

/-! ### Control transfer (R256 to R260) -/

theorem State.jumpTo_of_lt {s : State} {n : Nat} (h : n < s.prog.length) :
    s.jumpTo n = .ok { s with host := { s.host with pc := n } } := if_pos h

/-- R260: a target outside the program is F8. -/
theorem State.jumpTo_of_le {s : State} {n : Nat} (h : s.prog.length ≤ n) :
    s.jumpTo n = .fault .hostBadTarget (.index n) := if_neg (Nat.not_lt.mpr h)

theorem condEq_iff (a b : Word) : condEq a b = true ↔ a = b := beq_iff_eq

theorem condNe_iff (a b : Word) : condNe a b = true ↔ a ≠ b := bne_iff_ne

/-- The comparison of BLTU is unsigned. -/
theorem condLtu_iff (a b : Word) : condLtu a b = true ↔ a.toNat < b.toNat := BitVec.ult_iff_toNat_lt

/-- Each of the three branches is `branch` with the comparison that says when it is taken. -/
theorem exec_branch_condition {i : Instr} {vs vt : VarIx} {target a b : Word} {taken : Prop}
    (h : (i = .beq vs vt target ∧ (taken ↔ a = b)) ∨ (i = .bne vs vt target ∧ (taken ↔ a ≠ b))
      ∨ (i = .bltu vs vt target ∧ (taken ↔ a.toNat < b.toNat))) (s : State) :
    ∃ cond, exec i s = finish s (branch cond vs vt target s) ∧ (cond a b = true ↔ taken) := by
  obtain ⟨rfl, ht⟩ | ⟨rfl, ht⟩ | ⟨rfl, ht⟩ := h
  · exact ⟨condEq, rfl, (condEq_iff a b).trans ht.symm⟩
  · exact ⟨condNe, rfl, (condNe_iff a b).trans ht.symm⟩
  · exact ⟨condLtu, rfl, (condLtu_iff a b).trans ht.symm⟩

/-- Settles O23: a branch is `branch` with its comparison (`exec_branch_condition`), which jumps or advances; O26 for
F7. -/
theorem branchesCompareVariables : Obligations.BranchesCompareVariables := by
  intro s vs vt target
  refine ⟨⟨?_, ?_, ?_⟩, fun a b i taken ha hb hi => ?_, fun i hi => ?_⟩
  · exact decodeHost_packHost_of_fields .beq 0 vs vt 0#8 target rfl rfl
  · exact decodeHost_packHost_of_fields .bne 0 vs vt 0#8 target rfl rfl
  · exact decodeHost_packHost_of_fields .bltu 0 vs vt 0#8 target rfl rfl
  · obtain ⟨cond, hexec, hcond⟩ := exec_branch_condition hi s
    rw [hexec, branch_of_written ha hb]
    refine ⟨fun ht hin => ?_, fun ht hout => ?_, fun hnot => ?_⟩
    · rw [if_pos (hcond.mpr ht), State.jumpTo_of_lt hin]
      rfl
    · rw [if_pos (hcond.mpr ht), State.jumpTo_of_le hout]
      rfl
    · rw [if_neg (mt hcond.mp hnot)]
      rfl
  · obtain rfl | rfl | rfl := hi
    all_goals exact ⟨fun hvs => exec_of_first_source_unwritten rfl nofun rfl hvs,
      fun a ha hvt => exec_of_second_source_unwritten rfl nofun rfl ha hvt⟩

/-- Settles O24: `JMP` is `jumpTo` alone. -/
theorem jumpGoesToItsTarget : Obligations.JumpGoesToItsTarget := fun s target =>
  ⟨decodeHost_packHost_of_fields .jmp 0 0 0 0#8 target rfl rfl, fun h => congrArg (finish s) (State.jumpTo_of_lt h),
    fun h => congrArg (finish s) (State.jumpTo_of_le h)⟩

/-! ### System statements (R261 to R263) -/

/-- Settles O25: the four statements check nothing, so each is its one update. -/
theorem systemStatements : Obligations.SystemStatements := fun _ ms =>
  ⟨⟨decodeHost_packHost_of_fields .sleep 0 0 0 0#8 ms rfl rfl, decodeHost_packHost_of_fields .txb 0 0 0 0#8 0#32 rfl rfl,
      decodeHost_packHost_of_fields .txe 0 0 0 0#8 0#32 rfl rfl,
      decodeHost_packHost_of_fields .halt 0 0 0 0#8 0#32 rfl rfl⟩,
    rfl, rfl, rfl, rfl⟩

end Sys2Proof.Machine
end

section
/-! PROOFS of the exceptions family (60_exceptions.md): the recorded fault and the recorded refusal (R284, R285), the
faults of a configuration write (R288), of an enable (R300) and of a command write (R287, R289). -/

namespace Sys2Proof.Machine

/-! ### Recording once (R284, R285) -/

section Recording
variable {s : State}

theorem State.raise_of_none (h : s.out.fault = none) (c : FaultCode) (info : Info) :
    s.raise c info = { s with out := { s.out with fault := some (c, info) } } := by
  rw [State.raise, h, Option.none_or]

theorem State.raise_of_some {x : FaultCode × Info} (h : s.out.fault = some x) (c : FaultCode) (info : Info) :
    s.raise c info = s := by
  rw [State.raise, h, Option.some_or, ← h]

theorem State.refuse_of_none (h : s.out.refused = none) (c : RefusalCode) (info : Info) :
    s.refuse c info = { s with out := { s.out with refused := some (c, info) } } := by
  rw [State.refuse, h, Option.none_or]

theorem State.refuse_of_some {x : RefusalCode × Info} (h : s.out.refused = some x) (c : RefusalCode) (info : Info) :
    s.refuse c info = s := by
  rw [State.refuse, h, Option.some_or, ← h]

end Recording

/-! ### A change of the outcome record is the only change -/

/-- `t` is reached from `s` without a change of the outcome record, or by recording a fault or a refusal and nothing
else. -/
def RecordsAlone (s t : State) : Prop :=
  t.out = s.out ∨ (∃ c info, t = s.raise c info) ∨ ∃ c info, t = s.refuse c info

/-- A fault that was not recorded before is the only change. -/
theorem RecordsAlone.eq_of_fault {s t : State} (h : RecordsAlone s t) (hs : s.out.fault = none)
    (ht : t.out.fault ≠ none) : ∃ c info, t = { s with out := { s.out with fault := some (c, info) } } := by
  obtain hout | ⟨c, info, rfl⟩ | ⟨c, info, rfl⟩ := h
  · rw [hout] at ht
    exact absurd hs ht
  · exact ⟨c, info, State.raise_of_none hs c info⟩
  · exact absurd hs ht

/-- A refusal that was not recorded before is the only change. -/
theorem RecordsAlone.eq_of_refused {s t : State} (h : RecordsAlone s t) (hs : s.out.refused = none)
    (ht : t.out.refused ≠ none) : ∃ c info, t = { s with out := { s.out with refused := some (c, info) } } := by
  obtain hout | ⟨c, info, rfl⟩ | ⟨c, info, rfl⟩ := h
  · rw [hout] at ht
    exact absurd hs ht
  · exact absurd hs ht
  · exact ⟨c, info, State.refuse_of_none hs c info⟩

theorem exec_recordsAlone {i : Instr} {s t : State} (h : exec i s = .next t) : RecordsAlone s t :=
  (exec_next h).imp_left InstrFrame.out

/-! ### The engine's steps and the outcome record (R170 to R180) -/

@[simp] theorem State.sendByte_out (s : State) (a : Addr7) (d : Byte) : (s.sendByte a d).out = s.out := by
  obtain ⟨k, acks, -, -, h⟩ := s.sendByte_spec a d
  rw [h]

@[simp] theorem State.receiveByte_out (s : State) : s.receiveByte.out = s.out := by
  obtain ⟨b, bs, -, h⟩ := s.receiveByte_spec
  rw [h]

/-- An address phase leaves the record to what follows it. -/
theorem State.addressed_out (s : State) (a : Addr7) (dir : BusDir) {k : State → State}
    (hk : ∀ t, (k t).out = t.out) : (s.addressed a dir k).out = s.out := by
  obtain ⟨ack, acks, -, -, h⟩ := s.addressed_spec a dir k
  rw [h]
  cases ack with
  | true => exact hk _
  | false => rfl

theorem State.disableSync_out (s : State) : s.disableSync.out = s.out := by rw [State.disableSync_eq]

/-- The configuration test records F5 alone, or leaves the record to the entry it lets be taken (R179). -/
theorem State.configured_recordsAlone {s : State} {k : Addr7 → State} (hk : ∀ a, RecordsAlone s (k a)) :
    RecordsAlone s (s.configured k) := by
  obtain ⟨r, h⟩ | ⟨a, -, -, h⟩ := s.configured_spec k
  · exact .inr (.inl ⟨_, _, h⟩)
  · rw [h]
    exact hk a

theorem State.takeStart_recordsAlone (s : State) (b : Byte) : RecordsAlone s (s.takeStart b) :=
  State.configured_recordsAlone fun a => .inl (State.addressed_out _ a .w fun t => t.sendByte_out a b)

theorem State.takeData_recordsAlone (s : State) (d : Byte) : RecordsAlone s (s.takeData d) := by
  refine State.configured_recordsAlone fun a => .inl ?_
  split
  · exact State.sendByte_out _ a d
  · exact State.addressed_out _ a .w fun t => t.sendByte_out a d

/-- A READ entry records F6 alone, or nothing (R180). -/
theorem State.takeRead_recordsAlone (s : State) : RecordsAlone s s.takeRead := by
  refine State.configured_recordsAlone fun a => ?_
  split
  · exact .inr (.inl ⟨_, _, rfl⟩)
  · split
    · exact .inl (State.receiveByte_out _)
    · exact .inl (State.addressed_out _ a .r State.receiveByte_out)

theorem State.engineEffect_recordsAlone (s : State) (e : EngineStep) : RecordsAlone s (s.engineEffect e) := by
  cases e with
  | enableSync => exact .inl s.enableSync_out
  | disableSync => exact .inl s.disableSync_out
  | takeStart =>
    dsimp only [State.engineEffect]
    split
    · exact s.takeStart_recordsAlone _
    · exact .inl rfl
  | takeData =>
    dsimp only [State.engineEffect]
    split
    · exact s.takeData_recordsAlone _
    · exact .inl rfl
  | takeRead => exact s.takeRead_recordsAlone
  | stop => exact .inl s.stopBus_out
  | discard => exact .inl s.popCmd_out

theorem State.engineStep_recordsAlone (s : State) (e : EngineStep) : RecordsAlone s (s.engineStep e) := by
  unfold State.engineStep
  split
  · exact s.engineEffect_recordsAlone e
  · exact .inl rfl

/-! ### A step and the outcome record -/

/-- The schedule is among the model's own inputs. -/
theorem State.takeTurn_eq (s : State) : ∃ env, s.takeTurn = { s with env := env } := by
  unfold State.takeTurn
  split
  · exact ⟨_, rfl⟩
  · exact ⟨_, rfl⟩

/-- A step that changes the outcome record changes nothing else but the model's own inputs. -/
theorem step_recordsAlone {s t : State} (h : step s = .next t) : ∃ env, RecordsAlone { s with env := env } t := by
  obtain ⟨env, henv⟩ := s.takeTurn_eq
  have hcases := step_next h
  rw [henv] at hcases
  obtain (⟨-, rfl | ⟨u, ⟨acc, rfl⟩, i, hi⟩⟩ | ⟨-, ⟨c, info, rfl⟩ | ⟨c, info, rfl⟩⟩) | ⟨e, -, rfl⟩ := hcases
  · exact ⟨env, .inl rfl⟩
  · exact ⟨_, exec_recordsAlone hi⟩
  · exact ⟨env, .inr (.inl ⟨c, info, rfl⟩)⟩
  · exact ⟨env, .inr (.inr ⟨c, info, rfl⟩)⟩
  · exact ⟨env, State.engineStep_recordsAlone _ e⟩

/-- "After that no agent takes a step": with a fault recorded the machine has stopped (R284). -/
theorem step_of_fault {s : State} {c : FaultCode} {info : Info} (h : s.out.fault = some (c, info)) :
    step s = .fault (.faultRecorded c info) := by
  simp only [step, State.stopped, h]

/-- The same of a refusal, a fault being answered first (R285). -/
theorem step_of_refused {s : State} {c : RefusalCode} {info : Info} (hf : s.out.fault = none)
    (h : s.out.refused = some (c, info)) : step s = .refused (.refusalRecorded c info) := by
  simp only [step, State.stopped, hf, h]

/-- A step is taken only where nothing is recorded. -/
theorem out_eq_none_of_step_next {s t : State} (h : step s = .next t) :
    s.out.fault = none ∧ s.out.refused = none := by
  cases hf : s.out.fault with
  | some x => cases (step_of_fault hf).symm.trans h
  | none =>
    cases hr : s.out.refused with
    | some x => cases (step_of_refused hf hr).symm.trans h
    | none => exact ⟨rfl, rfl⟩

/-- Settles O28: what records a fault records it alone (`RecordsAlone`), and a recorded one answers every further
step. -/
theorem faultIsRecordedAndNothingElse : Obligations.FaultIsRecordedAndNothingElse := by
  refine ⟨fun i s t hs h ht => (exec_recordsAlone h).eq_of_fault hs ht, fun s t h ht => ?_, fun s c info hf => ?_⟩
  · obtain ⟨hs, -⟩ := out_eq_none_of_step_next h
    obtain ⟨env, hrec⟩ := step_recordsAlone h
    obtain ⟨c, info, rfl⟩ := hrec.eq_of_fault hs ht
    exact ⟨c, info, rfl⟩
  · refine ⟨fun _ => step_of_fault hf, fun t h => ?_, fun ⟨_, hnone, _⟩ => ?_, State.raise_of_some hf⟩
    · cases hf.symm.trans (out_eq_none_of_step_next h).1
    · cases hf.symm.trans hnone

/-- Settles O29: what records a refusal records it alone (`RecordsAlone`), and a recorded one answers every further
step. -/
theorem refusalIsRecordedAndNothingElse : Obligations.RefusalIsRecordedAndNothingElse := by
  refine ⟨fun i s t hs h ht => (exec_recordsAlone h).eq_of_refused hs ht, fun s t h ht => ?_, fun s c info hr => ?_⟩
  · obtain ⟨-, hs⟩ := out_eq_none_of_step_next h
    obtain ⟨env, hrec⟩ := step_recordsAlone h
    obtain ⟨c, info, rfl⟩ := hrec.eq_of_refused hs ht
    exact ⟨c, info, rfl⟩
  · refine ⟨fun hf => step_of_refused hf hr, fun t h => ?_, fun ⟨_, _, hnone, _⟩ => ?_, State.refuse_of_some hr⟩
    · cases hr.symm.trans (out_eq_none_of_step_next h).2
    · cases hr.symm.trans hnone

/-! ### The rules of the register writes, by what the controller holds (R131 to R139) -/

section Writes
variable {s : State}

theorem State.cfgLocked_eq_true_iff : s.cfgLocked = true ↔ s.ctl.enStatus = true ∨ s.ctl.enReq = true :=
  Bool.or_eq_true_iff

theorem State.cfgLocked_eq_false_iff : s.cfgLocked = false ↔ s.ctl.enStatus = false ∧ s.ctl.enReq = false :=
  Bool.or_eq_false_iff

theorem State.writeConfig_of_unlocked (h : s.cfgLocked = false) (r : RegName) (ctl : Controller) :
    s.writeConfig r ctl = .ok { s with ctl := ctl } := if_neg (ne_true_of_eq_false h)

/-- R288. -/
theorem State.writeConfig_of_locked (h : s.cfgLocked = true) (r : RegName) (ctl : Controller) :
    s.writeConfig r ctl = .fault .configWhileEnabled (.reg r) := if_pos h

theorem writeEnableOn_of_admitted (h : s.ctl.enReq = true ∨ s.ctl.enStatus = false) :
    writeEnableOn s = .ok { s with ctl := { s.ctl with enReq := true } } := by
  refine if_neg fun ⟨hreq, hst⟩ => ?_
  obtain h | h := h
  · exact absurd h (ne_true_of_eq_false hreq)
  · exact absurd hst (ne_true_of_eq_false h)

/-- R300. -/
theorem writeEnableOn_of_disable_pending (hreq : s.ctl.enReq = false) (hst : s.ctl.enStatus = true) :
    writeEnableOn s = .fault .enableDuringDisable (.reg .enable) := if_pos ⟨hreq, hst⟩

theorem State.pushCmd_of_room (hst : s.ctl.enStatus = true) (hroom : s.ctl.cmdFifo.length ≠ s.cfg.txDepth)
    (e : CmdEntry) : s.pushCmd e = .ok { s with ctl := { s.ctl with cmdFifo := s.ctl.cmdFifo ++ [e] } } :=
  (if_neg (ne_false_of_eq_true hst)).trans (if_neg hroom)

/-- R289: tested before the FIFO's level. -/
theorem State.pushCmd_of_disabled (hst : s.ctl.enStatus = false) (e : CmdEntry) :
    s.pushCmd e = .fault .dataCmdWhileDisabled (.reg .dataCmd) := if_pos hst

/-- R287. -/
theorem State.pushCmd_of_full (hst : s.ctl.enStatus = true) (hfull : s.ctl.cmdFifo.length = s.cfg.txDepth)
    (e : CmdEntry) : s.pushCmd e = .fault .cmdOverflow (.reg .dataCmd) :=
  (if_neg (ne_false_of_eq_true hst)).trans (if_pos hfull)

end Writes

/-- Settles O11: the four writes are `writeConfig`, which `cfgLocked` alone decides. -/
theorem configurationWritesNeedDisabled : Obligations.ConfigurationWritesNeedDisabled := by
  intro s a c
  refine ⟨fun hst hreq => ?_, fun hlock => ?_⟩
  · have hw := State.writeConfig_of_unlocked (State.cfgLocked_eq_false_iff.mpr ⟨hst, hreq⟩)
    exact ⟨congrArg (finish s) (hw .con _), congrArg (finish s) (hw .tar _), congrArg (finish s) (hw .fsHcnt _),
      congrArg (finish s) (hw .fsLcnt _)⟩
  · have hw := State.writeConfig_of_locked (State.cfgLocked_eq_true_iff.mpr hlock)
    exact ⟨congrArg (finish s) (hw .con _), congrArg (finish s) (hw .tar _), congrArg (finish s) (hw .fsHcnt _),
      congrArg (finish s) (hw .fsLcnt _)⟩

/-- Settles O12: an enable is tested for a pending disable, a disable for nothing. -/
theorem enableWritesSetTheRequest : Obligations.EnableWritesSetTheRequest := fun s =>
  ⟨fun h => congrArg (finish s) (writeEnableOn_of_admitted h),
    fun hreq hst => congrArg (finish s) (writeEnableOn_of_disable_pending hreq hst), rfl⟩

/-- Each of the three command writes pushes its entry. -/
theorem exec_command_write_eq_pushCmd {i : Instr} {b : Byte}
    (h : i = .wDataCmdStart b ∨ i = .wDataCmdData b ∨ i = .wDataCmdRead) (s : State) :
    ∃ e, exec i s = finish s (s.pushCmd e) := by
  obtain rfl | rfl | rfl := h
  · exact ⟨.wr b true, rfl⟩
  · exact ⟨.wr b false, rfl⟩
  · exact ⟨.rd, rfl⟩

/-- Settles O13: the three writes are `pushCmd`, which tests the enable before the FIFO's level. -/
theorem commandWritesPushOneEntry : Obligations.CommandWritesPushOneEntry := by
  intro s b
  refine ⟨fun hst hroom => ?_, fun hst i hi => ?_, fun hst hfull i hi => ?_⟩
  · have hpush := State.pushCmd_of_room hst hroom
    exact ⟨congrArg (finish s) (hpush (.wr b true)), congrArg (finish s) (hpush (.wr b false)),
      congrArg (finish s) (hpush .rd)⟩
  · obtain ⟨e, he⟩ := exec_command_write_eq_pushCmd hi s
    exact he.trans (congrArg (finish s) (State.pushCmd_of_disabled hst e))
  · obtain ⟨e, he⟩ := exec_command_write_eq_pushCmd hi s
    exact he.trans (congrArg (finish s) (State.pushCmd_of_full hst hfull e))

end Sys2Proof.Machine
end

section
/-! PROOFS of the reset and hazards family: the state at reset, value by value (70_reset_and_hazards.md R311, R313). -/

namespace Sys2Proof.Machine

/-- R313: no variable is written at launch. -/
@[simp] theorem HostState.reset_vars_getElem (j : VarIx) : HostState.reset.vars[j] = .unwritten :=
  Vector.getElem_replicate j.isLt

/-- Settles O47: the variables by the lemma over the index, every other value as `State.reset` gives it. -/
theorem resetIsResetLaunch : Obligations.ResetIsResetLaunch :=
  ⟨rfl, rfl, rfl, rfl, HostState.reset_vars_getElem, rfl, rfl, rfl⟩

end Sys2Proof.Machine
end

section
/-! PROOFS of the round trip between instructions and their encodings (30_encoding.md): decoding what is encoded (R101,
R102, R111, R112), encoding what decodes (R101, R115), the listed words, an access at a physical address (20_memory.md
R71 to R74), the masked reads (R108, R109). -/

namespace Sys2Proof

open Machine

/-! ### The register and the value of a write form (R102), the register of a read form (R103) -/

/-- The register a write form writes. -/
def WriteForm.reg : WriteForm → RegName
  | .con => .con
  | .tar _ => .tar
  | .fsHcnt _ => .fsHcnt
  | .fsLcnt _ => .fsLcnt
  | .enableOn => .enable
  | .enableOff => .enable
  | .start _ => .dataCmd
  | .data _ => .dataCmd
  | .read => .dataCmd
  | .usefpga => .usefpga
  | .gpioA => .gpioA
  | .gpioB => .gpioB

/-- The value a write form writes. -/
def WriteForm.value (P : Params) : WriteForm → Word
  | .con => P.conValue
  | .tar a => a.setWidth 32
  | .fsHcnt c => c.setWidth 32
  | .fsLcnt c => c.setWidth 32
  | .enableOn => 1#32
  | .enableOff => 2#32
  | .start a => P.startValue a
  | .data d => d.setWidth 32
  | .read => readToken
  | .usefpga => 0#32
  | .gpioA => 1#32
  | .gpioB => 1#32

/-- The register a read form reads. -/
def ReadForm.reg : ReadForm → RegName
  | .enStatus => .enStatus
  | .rxflr => .rxflr
  | .dataCmd => .dataCmd

theorem encode_writeForm (P : Params) (f : WriteForm) : encode P f.toInstr = .bus (P.writeOp f.reg (f.value P)) := by
  cases f <;> rfl

theorem encode_readForm (P : Params) (f : ReadForm) : encode P f.toInstr = .bus (P.readOp f.reg) := by
  cases f <;> rfl

theorem WriteForm.toInstr_wellFormed (f : WriteForm) : f.toInstr.wellFormed = true := by cases f <;> rfl

theorem ReadForm.toInstr_wellFormed (f : ReadForm) : f.toInstr.wellFormed = true := by cases f <;> rfl

/-! ### A value and its low bits -/

/-- The low bits of a value padded with zeros are the value. -/
theorem extractLsb'_zero_setWidth {k n : Nat} (a : BitVec k) : (a.setWidth (k + n)).extractLsb' 0 k = a := by
  refine BitVec.eq_of_getLsbD_eq fun i hi => ?_
  simp [hi, show i < k + n by omega]

/-- The other bits of a value padded with zeros are 0. -/
theorem extractLsb'_setWidth_eq_zero {k n : Nat} (a : BitVec k) : (a.setWidth (k + n)).extractLsb' k n = 0#n := by
  refine BitVec.eq_of_getLsbD_eq fun i hi => ?_
  simp

/-- A word whose other bits are 0 is its low bits padded with zeros. -/
theorem setWidth_extractLsb'_zero {k n : Nat} {v : BitVec (k + n)} (h : v.extractLsb' k n = 0#n) :
    (v.extractLsb' 0 k).setWidth (k + n) = v := by
  refine BitVec.eq_of_getLsbD_eq fun i hi => ?_
  rw [BitVec.getLsbD_setWidth, BitVec.getLsbD_extractLsb', Nat.zero_add]
  by_cases hk : i < k
  · simp [hi, hk]
  · have hbit := congrArg (fun x : BitVec n => x.getLsbD (i - k)) h
    simp only [BitVec.getLsbD_extractLsb', BitVec.getLsbD_zero, Nat.add_sub_cancel' (Nat.not_lt.mp hk)] at hbit
    simpa [hk, show i - k < n by omega] using hbit.symm

/-! ### The write and the read forms decode from their own register and value, and from nothing else -/

theorem decodeWrite_value {P : Params} (hwf : P.wf = true) (f : WriteForm) :
    decodeWrite P f.reg (f.value P) = .ok f := by
  cases f with
  | con => exact if_pos rfl
  | enableOn | enableOff | usefpga | gpioA | gpioB => rfl
  | tar a =>
    exact (if_pos (extractLsb'_setWidth_eq_zero (n := 25) a)).trans
      (congrArg (fun x => Except.ok (WriteForm.tar x)) (extractLsb'_zero_setWidth (n := 25) a))
  | fsHcnt c =>
    exact (if_pos (extractLsb'_setWidth_eq_zero (n := 16) c)).trans
      (congrArg (fun x => Except.ok (WriteForm.fsHcnt x)) (extractLsb'_zero_setWidth (n := 16) c))
  | fsLcnt c =>
    exact (if_pos (extractLsb'_setWidth_eq_zero (n := 16) c)).trans
      (congrArg (fun x => Except.ok (WriteForm.fsLcnt x)) (extractLsb'_zero_setWidth (n := 16) c))
  | start a => exact decodeCmd_start hwf a
  | data d => exact decodeCmd_data hwf d
  | read => exact decodeCmd_read hwf

/-- A test that admits a value was passed, and the form is the one it answers. -/
theorem form_of_ite_badValue {c : Prop} [Decidable c] {g f : WriteForm} {r : RegName} {v : Word}
    (h : (if c then .ok g else badValue r v) = Except.ok f) : c ∧ f = g := by
  split at h
  · next hc => exact ⟨hc, (Except.ok.inj h).symm⟩
  · cases h

theorem decodeWrite_eq_ok {P : Params} {r : RegName} {v : Word} {f : WriteForm} (h : decodeWrite P r v = .ok f) :
    f.reg = r ∧ f.value P = v := by
  cases r with
  | con | usefpga | gpioA | gpioB =>
    obtain ⟨hv, rfl⟩ := form_of_ite_badValue h
    exact ⟨rfl, hv.symm⟩
  | tar =>
    obtain ⟨hv, rfl⟩ := form_of_ite_badValue h
    exact ⟨rfl, setWidth_extractLsb'_zero (k := 7) hv⟩
  | fsHcnt | fsLcnt =>
    obtain ⟨hv, rfl⟩ := form_of_ite_badValue h
    exact ⟨rfl, setWidth_extractLsb'_zero (k := 16) hv⟩
  | enable =>
    by_cases hon : v = 1#32
    · cases (if_pos hon).symm.trans h
      exact ⟨rfl, hon.symm⟩
    · obtain ⟨hv, rfl⟩ := form_of_ite_badValue ((if_neg hon).symm.trans h)
      exact ⟨rfl, hv.symm⟩
  | dataCmd =>
    obtain ⟨a, rfl, hv⟩ | ⟨d, rfl, hv⟩ | ⟨rfl, hv⟩ := decodeCmd_eq_ok h
    all_goals exact ⟨rfl, hv.symm⟩
  | rxflr | enStatus => cases h

theorem decodeRead_reg (f : ReadForm) : decodeRead f.reg = .ok f := by cases f <;> rfl

theorem decodeRead_eq_ok {r : RegName} {f : ReadForm} (h : decodeRead r = .ok f) : f.reg = r := by
  cases r with
  | enStatus | rxflr | dataCmd =>
    cases h
    rfl
  | con | tar | fsHcnt | fsLcnt | enable | usefpga | gpioA | gpioB => cases h

/-! ### The round trip of a register access -/

theorem decode_encode_writeForm {P : Params} (hwf : P.wf = true) (f : WriteForm) :
    decode P (encode P f.toInstr) = .ok f.toInstr := by
  have hself : decodeBus P (P.writeOp f.reg (f.value P)) = decodeAccess P f.reg (some (f.value P)) :=
    decodeBus_write_of_registerAt (Params.registerAt_self hwf f.reg) _
  rw [encode_writeForm, decode, hself, decodeAccess, decodeWrite_value hwf]
  rfl

theorem decode_encode_readForm {P : Params} (hwf : P.wf = true) (f : ReadForm) :
    decode P (encode P f.toInstr) = .ok f.toInstr := by
  have hself : decodeBus P (P.readOp f.reg) = decodeAccess P f.reg none :=
    decodeBus_read_of_registerAt (Params.registerAt_self hwf f.reg)
  rw [encode_readForm, decode, hself, decodeAccess, decodeRead_reg]
  rfl

/-- What a mapped decoder answers is what the function makes of the decoder's answer. -/
theorem Except.map_eq_ok {ε α β : Type} {x : Except ε α} {g : α → β} {b : β} (h : x.map g = .ok b) :
    ∃ a, x = .ok a ∧ b = g a := by
  cases x with
  | ok a => exact ⟨a, rfl, (Except.ok.inj h).symm⟩
  | error e => cases h

/-- A bus operation that decodes is its instruction's encoding, and the instruction is a register access. -/
theorem decodeBus_eq_ok {P : Params} {op : BusOp} {i : Instr} (h : decodeBus P op = .ok i) :
    i.wellFormed = true ∧ encode P i = .bus op := by
  cases op with
  | read w off =>
    cases hr : P.registerAt w off with
    | none => cases (decodeBus_read_of_registerAt_none hr).symm.trans h
    | some r =>
      obtain ⟨rfl, rfl⟩ := Params.registerAt_some hr
      obtain ⟨f, hf, rfl⟩ := Except.map_eq_ok ((decodeBus_read_of_registerAt hr).symm.trans h)
      obtain rfl := decodeRead_eq_ok hf
      exact ⟨f.toInstr_wellFormed, encode_readForm P f⟩
  | write w off v =>
    cases hr : P.registerAt w off with
    | none => cases (decodeBus_write_of_registerAt_none hr v).symm.trans h
    | some r =>
      obtain ⟨rfl, rfl⟩ := Params.registerAt_some hr
      obtain ⟨f, hf, rfl⟩ := Except.map_eq_ok ((decodeBus_write_of_registerAt hr v).symm.trans h)
      obtain ⟨rfl, rfl⟩ := decodeWrite_eq_ok hf
      exact ⟨f.toInstr_wellFormed, encode_writeForm P f⟩

/-! ### The round trip of a host statement -/

/-- A host statement has a word, which decodes to it at any parameters. -/
theorem encode_host {i : Instr} (P : Params) (hbus : i.isBus = false) (hwf : i.wellFormed = true) :
    ∃ w, encode P i = .host w ∧ decodeHost w = .ok i := by
  cases i with
  | wri sel imm => exact ⟨_, rfl, decodeHost_packHost_of_fields .wri 0 0 0 sel imm rfl rfl⟩
  | wrv sel vs => exact ⟨_, rfl, decodeHost_packHost_of_fields .wrv 0 vs 0 sel 0#32 rfl rfl⟩
  | rd vd sel => exact ⟨_, rfl, decodeHost_packHost_of_fields .rd vd 0 0 sel 0#32 rfl rfl⟩
  | movi vd imm => exact ⟨_, rfl, decodeHost_packHost_of_fields .movi vd 0 0 0#8 imm rfl rfl⟩
  | addi vd vs imm => exact ⟨_, rfl, decodeHost_packHost_of_fields .addi vd vs 0 0#8 imm rfl rfl⟩
  | andi vd vs imm => exact ⟨_, rfl, decodeHost_packHost_of_fields .andi vd vs 0 0#8 imm rfl rfl⟩
  | ori vd vs imm => exact ⟨_, rfl, decodeHost_packHost_of_fields .ori vd vs 0 0#8 imm rfl rfl⟩
  | or vd vs vt => exact ⟨_, rfl, decodeHost_packHost_of_fields .or vd vs vt 0#8 0#32 rfl rfl⟩
  | shli vd vs imm => exact ⟨_, rfl, decodeHost_packHost_of_fields .shli vd vs 0 0#8 imm rfl hwf⟩
  | add vd vs vt => exact ⟨_, rfl, decodeHost_packHost_of_fields .add vd vs vt 0#8 0#32 rfl rfl⟩
  | beq vs vt l => exact ⟨_, rfl, decodeHost_packHost_of_fields .beq 0 vs vt 0#8 l rfl rfl⟩
  | bne vs vt l => exact ⟨_, rfl, decodeHost_packHost_of_fields .bne 0 vs vt 0#8 l rfl rfl⟩
  | bltu vs vt l => exact ⟨_, rfl, decodeHost_packHost_of_fields .bltu 0 vs vt 0#8 l rfl rfl⟩
  | jmp l => exact ⟨_, rfl, decodeHost_packHost_of_fields .jmp 0 0 0 0#8 l rfl rfl⟩
  | sleep ms => exact ⟨_, rfl, decodeHost_packHost_of_fields .sleep 0 0 0 0#8 ms rfl rfl⟩
  | txb => exact ⟨_, rfl, decodeHost_packHost_of_fields .txb 0 0 0 0#8 0#32 rfl rfl⟩
  | txe => exact ⟨_, rfl, decodeHost_packHost_of_fields .txe 0 0 0 0#8 0#32 rfl rfl⟩
  | halt => exact ⟨_, rfl, decodeHost_packHost_of_fields .halt 0 0 0 0#8 0#32 rfl rfl⟩
  | wCon | wTar _ | wFsHcnt _ | wFsLcnt _ | wEnableOn | wEnableOff | wDataCmdStart _ | wDataCmdData _ | wDataCmdRead
  | rEnStatus | rRxflr | rDataCmd | wSysUsefpga | wSysGpioA | wSysGpioB => cases hbus

/-- The encoding of the instruction an opcode and fields spell is those fields packed, if the unused ones are 0. -/
theorem encode_build (P : Params) (o : HostOp) (d s t : VarIx) (sel : Byte) (imm : Word)
    (hd : o.uses.d = true ∨ d = 0) (hs : o.uses.s = true ∨ s = 0) (ht : o.uses.t = true ∨ t = 0)
    (hsel : o.uses.sel = true ∨ sel = 0#8) (himm : o.uses.imm = true ∨ imm = 0#32) :
    encode P (o.build d s t sel imm) = .host (packHost o.byte d s t sel imm) := by
  cases o
  all_goals
    simp only [HostOp.uses, true_or, Bool.false_eq_true, false_or] at hd hs ht hsel himm
    subst_vars
    rfl

/-- A host word that decodes is the encoding of its instruction. -/
theorem decodeHost_eq_ok_encode {w : HostWord} {i : Instr} (P : Params) (h : decodeHost w = .ok i) :
    i.wellFormed = true ∧ encode P i = .host w := by
  obtain ⟨o, hop, hu, rfl, hwf⟩ := decodeHost_eq_ok h
  simp only [unusedZero, Bool.and_eq_true, Bool.or_eq_true, beq_iff_eq] at hu
  obtain ⟨⟨⟨⟨⟨hd, hs⟩, ht⟩, hz⟩, hsel⟩, himm⟩ := hu
  refine ⟨hwf, ?_⟩
  rw [HostOp.read, encode_build P o _ _ _ _ _ hd hs ht hsel himm, ← hop, packHost_fields w hz]

/-! ### Both encodings -/

/-- An instruction is a register access of a write form or a read form, or a host statement. -/
theorem Instr.form_cases (i : Instr) :
    (∃ f : WriteForm, i = f.toInstr) ∨ (∃ f : ReadForm, i = f.toInstr) ∨ i.isBus = false := by
  cases i with
  | wCon => exact .inl ⟨.con, rfl⟩
  | wTar a => exact .inl ⟨.tar a, rfl⟩
  | wFsHcnt c => exact .inl ⟨.fsHcnt c, rfl⟩
  | wFsLcnt c => exact .inl ⟨.fsLcnt c, rfl⟩
  | wEnableOn => exact .inl ⟨.enableOn, rfl⟩
  | wEnableOff => exact .inl ⟨.enableOff, rfl⟩
  | wDataCmdStart a => exact .inl ⟨.start a, rfl⟩
  | wDataCmdData d => exact .inl ⟨.data d, rfl⟩
  | wDataCmdRead => exact .inl ⟨.read, rfl⟩
  | wSysUsefpga => exact .inl ⟨.usefpga, rfl⟩
  | wSysGpioA => exact .inl ⟨.gpioA, rfl⟩
  | wSysGpioB => exact .inl ⟨.gpioB, rfl⟩
  | rEnStatus => exact .inr (.inl ⟨.enStatus, rfl⟩)
  | rRxflr => exact .inr (.inl ⟨.rxflr, rfl⟩)
  | rDataCmd => exact .inr (.inl ⟨.dataCmd, rfl⟩)
  | wri _ _ | wrv _ _ | rd _ _ | movi _ _ | addi _ _ _ | andi _ _ _ | ori _ _ _ | or _ _ _ | shli _ _ _ | add _ _ _
  | beq _ _ _ | bne _ _ _ | bltu _ _ _ | jmp _ | sleep _ | txb | txe | halt => exact .inr (.inr rfl)

/-- Settles O1: the write forms, the read forms (R11 makes each register the one found at its offset) and the host
statements each decode from their own encoding. -/
theorem encodingDecodesToItsInstruction : Obligations.EncodingDecodesToItsInstruction := by
  intro P i hP hi
  obtain ⟨f, rfl⟩ | ⟨f, rfl⟩ | hbus := i.form_cases
  · exact decode_encode_writeForm hP f
  · exact decode_encode_readForm hP f
  · obtain ⟨w, hw, hdec⟩ := encode_host P hbus hi
    rw [hw]
    exact hdec

/-- Settles O2: `decodeBus_eq_ok` and `decodeHost_eq_ok_encode`, one of each decoder. -/
theorem decodedCodeIsItsEncoding : Obligations.DecodedCodeIsItsEncoding := by
  intro P c i _ h
  cases c with
  | bus op => exact decodeBus_eq_ok h
  | host w => exact decodeHost_eq_ok_encode P h

/-! ### Listed words (95_test_vectors.md) -/

/-- Settles O4: each host word is the packing of the fields listed for it; the three accesses are evaluated. -/
theorem listedWordsDecodeAsListed : Obligations.ListedWordsDecodeAsListed :=
  ⟨decodeHost_packHost_of_fields .wri 0 0 0 0x10#8 0#32 rfl rfl, decodeHost_packHost_of_fields .wrv 0 1 0 0x02#8 0#32 rfl rfl,
    decodeHost_packHost_of_fields .rd 15 0 0 0x07#8 0#32 rfl rfl, decodeHost_packHost_of_fields .shli 1 1 0 0#8 3#32 rfl rfl,
    decodeHost_packHost_of_fields .or 8 8 4 0#8 0#32 rfl rfl, decodeHost_packHost_of_fields .beq 0 15 13 0#8 15#32 rfl rfl,
    decodeHost_packHost_of_fields .halt 0 0 0 0#8 0#32 rfl rfl, by decide, by decide, by decide⟩

/-! ### Accesses at a physical address (20_memory.md R71 to R74) -/

theorem RegName.mem_all (r : RegName) : r ∈ RegName.all := by cases r <;> decide

theorem Params.registerAtAddress_eq_none {P : Params} {addr : Nat} (h : ∀ r : RegName, P.address r ≠ addr) :
    P.registerAtAddress addr = none :=
  List.find?_eq_none.mpr fun r _ hr => h r (of_decide_eq_true hr)

/-- A register whose address is no other register's is the one found there. -/
theorem Params.registerAtAddress_self {P : Params} {r : RegName}
    (honly : ∀ r' : RegName, P.address r' = P.address r → r' = r) : P.registerAtAddress (P.address r) = some r := by
  cases hfound : P.registerAtAddress (P.address r) with
  | none => exact absurd (decide_eq_true rfl) (List.find?_eq_none.mp hfound r r.mem_all)
  | some r' => rw [honly r' (of_decide_eq_true (List.find?_some hfound :))]

/-- Settles O9: the width is tested first, and then the address is looked up among the registers' own. -/
theorem physicalAccessIsX5OrItsRegister : Obligations.PhysicalAccessIsX5OrItsRegister := by
  intro P a
  refine ⟨fun hwidth => if_neg hwidth, fun hnone => ?_, fun r hwidth haddr honly => ?_⟩
  · rw [decodePhys, Params.registerAtAddress_eq_none hnone]
    exact ite_self _
  · have hfound : P.registerAtAddress a.addr = some r := haddr ▸ Params.registerAtAddress_self honly
    rw [decodePhys, if_pos hwidth, hfound]

/-! ### Masked reads (R108, R109) -/

/-- A mask of ones as wide as the low part of an appended value leaves that part, padded with zeros. -/
theorem append_and_allOnes {m n : Nat} (u : BitVec m) (b : BitVec n) :
    (u ++ b) &&& (BitVec.allOnes n).setWidth (m + n) = b.setWidth (m + n) := by
  refine BitVec.eq_of_getLsbD_eq fun i hi => ?_
  rw [BitVec.getLsbD_and, BitVec.getLsbD_append, BitVec.getLsbD_setWidth, BitVec.getLsbD_setWidth, BitVec.getLsbD_allOnes]
  by_cases hn : i < n
  · simp only [hi, hn, if_true, decide_true, Bool.and_true, Bool.true_and]
  · simp only [hn, decide_false, Bool.and_false, b.getLsbD_of_ge i (Nat.not_lt.mp hn)]

/-- Settles O16: the masks are 1 and 8 ones, and the low parts the status bit and the byte. -/
theorem maskedReadsAreExact : Obligations.MaskedReadsAreExact := by
  refine ⟨fun u b => (append_and_allOnes u (BitVec.ofBool b)).trans ?_, fun u b => append_and_allOnes u b⟩
  cases b <;> rfl

end Sys2Proof
end

section
/-! PROOFS of what an instruction does and leaves alone: the reads and the routing writes (40_register_access.md R140 to
R145), the host statements that reach a register (43_host_program.md R245 to R247), the order of the checks
(60_exceptions.md R301), the frames of the instructions. -/

namespace Sys2Proof.Machine

/-! ### The reads (R140 to R142) -/

theorem readDataCmd_nil {s : State} (h : s.ctl.rxFifo = []) : readDataCmd s = .fault .rxUnderflow (.reg .dataCmd) := by
  rw [readDataCmd, h]

theorem readDataCmd_cons {s : State} {b : Byte} {bs : List Byte} (h : s.ctl.rxFifo = b :: bs) :
    readDataCmd s = .ok (dataCmdValue (s.draw 24).1 b,
      { (s.draw 24).2 with ctl := { (s.draw 24).2.ctl with rxFifo := bs } }) := by
  rw [readDataCmd, h]

/-- Settles O14: the upper bits of `EN_STATUS` are the bits drawn. -/
theorem statusReadsReturnStatus : Obligations.StatusReadsReturnStatus := fun s => ⟨⟨(s.draw 31).1, rfl⟩, rfl⟩

/-- Settles O15: the two cases of `readDataCmd`; the upper bits are the bits drawn. -/
theorem dataReadPopsTheOldestByte : Obligations.DataReadPopsTheOldestByte := fun s =>
  ⟨fun _ _ h => ⟨(s.draw 24).1, congrArg (fun x => finish s (Access.map keepResult x)) (readDataCmd_cons h)⟩,
    fun h => congrArg (fun x => finish s (Access.map keepResult x)) (readDataCmd_nil h)⟩

/-! ### The routing writes (R143 to R145, R47) -/

theorem State.muxRouted_iff (s : State) :
    s.muxRouted = true ↔ s.sys = { usefpga := .written 0#32, gpioA := .written 1#32, gpioB := .written 1#32 } := by
  cases hsys : s.sys with
  | mk u a b => simp [State.muxRouted, hsys]

/-- Settles O17: the three writes check nothing; `State.muxRouted_iff` for the lines. -/
theorem routingWritesRouteTheLines : Obligations.RoutingWritesRouteTheLines := fun s =>
  ⟨rfl, rfl, rfl, s.muxRouted_iff⟩

/-! ### An admitted write, by whether it executes normally (R131 to R139, R143 to R145) -/

theorem exec_writeForm (f : WriteForm) (s : State) : exec f.toInstr s = finish s (applyWrite f s) := by
  cases f <;> rfl

theorem applyWrite_of_writeRuns {f : WriteForm} {s : State} (h : writeRuns f s) : ∃ t, applyWrite f s = .ok t := by
  cases f with
  | con | tar | fsHcnt | fsLcnt => exact ⟨_, State.writeConfig_of_unlocked (State.cfgLocked_eq_false_iff.mpr h) _ _⟩
  | enableOn => exact ⟨_, writeEnableOn_of_admitted h⟩
  | enableOff | usefpga | gpioA | gpioB => exact ⟨_, rfl⟩
  | start | data | read =>
    obtain ⟨hst, hroom⟩ := h
    exact ⟨_, State.pushCmd_of_room hst hroom _⟩

/-- A push that does not succeed faults: F4 before F2. -/
theorem State.pushCmd_fault {s : State} (h : ¬ (s.ctl.enStatus = true ∧ s.ctl.cmdFifo.length ≠ s.cfg.txDepth))
    (e : CmdEntry) : ∃ c info, s.pushCmd e = .fault c info := by
  cases hst : s.ctl.enStatus with
  | false => exact ⟨_, _, State.pushCmd_of_disabled hst e⟩
  | true =>
    have hfull : s.ctl.cmdFifo.length = s.cfg.txDepth := not_not.mp fun hroom => h ⟨hst, hroom⟩
    exact ⟨_, _, State.pushCmd_of_full hst hfull e⟩

theorem applyWrite_of_not_writeRuns {f : WriteForm} {s : State} (h : ¬ writeRuns f s) :
    ∃ c info, applyWrite f s = .fault c info := by
  cases f with
  | con | tar | fsHcnt | fsLcnt =>
    have hlocked : s.cfgLocked = true :=
      Bool.of_not_eq_false fun hunlocked => h (State.cfgLocked_eq_false_iff.mp hunlocked)
    exact ⟨_, _, State.writeConfig_of_locked hlocked _ _⟩
  | enableOn =>
    obtain ⟨hreq, hst⟩ := not_or.mp h
    exact ⟨_, _, writeEnableOn_of_disable_pending (Bool.of_not_eq_true hreq) (Bool.of_not_eq_false hst)⟩
  | enableOff | usefpga | gpioA | gpioB => exact absurd trivial h
  | start | data | read => exact State.pushCmd_fault h _

/-! ### A host statement at a selector that names a register (R245 to R247) -/

section Selected
variable {s : State} {sel : Byte} {r : RegName} (hsel : selectorRegister sel = some r)
include hsel

section Write
variable {d : Params → RegName → Word → Except Rejection WriteForm} {v : State → Access Word} {w : Word}
  (hv : v s = .ok w)
include hv

/-- A host write of a known value is the register's write of it, then `pc + 1`. -/
theorem hostWrite_of_value : hostWrite d sel v s = (regWrite (d s.cfg r w) s).map State.advance := by
  rw [hostWrite, readSelector_some hsel, Access.bind_ok, hv, Access.bind_ok]

theorem hostWrite_of_ok {f : WriteForm} {t : State} (hd : d s.cfg r w = .ok f) (ht : applyWrite f s = .ok t) :
    hostWrite d sel v s = .ok t.advance := by
  rw [hostWrite_of_value hsel hv, hd, regWrite, Access.ofDecode_ok, Access.bind_ok, ht, Access.map_ok]

theorem hostWrite_of_rule_fault {f : WriteForm} {c : FaultCode} {info : Info} (hd : d s.cfg r w = .ok f)
    (hf : applyWrite f s = .fault c info) : hostWrite d sel v s = .fault c info := by
  rw [hostWrite_of_value hsel hv, hd, regWrite, Access.ofDecode_ok, Access.bind_ok, hf, Access.map_fault]

theorem hostWrite_of_refused {e : Rejection} (hd : d s.cfg r w = .error e) :
    hostWrite d sel v s = .refuse e.1 e.2 := by
  rw [hostWrite_of_value hsel hv, hd, regWrite, Access.ofDecode_error, Access.bind_refuse, Access.map_refuse]

end Write

/-- A host read is the register's read, into `vd`, then `pc + 1`. -/
theorem hostRead_of_register (vd : VarIx) :
    hostRead vd sel s = (regRead r s).map fun x => (x.2.setVar vd x.1).advance := by
  rw [hostRead, readSelector_some hsel, Access.bind_ok]

/-- A host read of a register R103 does not list is X4 with the register. -/
theorem hostRead_of_writeOnly (hst : r ≠ .enStatus) (hrx : r ≠ .rxflr) (hcmd : r ≠ .dataCmd) (vd : VarIx) :
    hostRead vd sel s = .refuse .unadmittedRead (.reg r) := by
  rw [hostRead_of_register hsel, regRead, decodeRead_of_writeOnly hst hrx hcmd, Access.ofDecode_error, Access.bind_refuse,
    Access.map_refuse]

end Selected

/-- Settles O18: where the write runs (`applyWrite_of_writeRuns`), both statements decode it alike, perform it and
advance. -/
theorem hostWritesPerformTheRegisterWrite : Obligations.HostWritesPerformTheRegisterWrite := by
  intro s sel r v f hsel hf hrun
  obtain ⟨t, ht⟩ := applyWrite_of_writeRuns hrun
  obtain ⟨-, -, hhost, hout, -⟩ := applyWrite_frame ht
  have hadvance : { t with host := { t.host with pc := s.host.pc + 1 } } = t.advance := by rw [State.advance, hhost]
  refine ⟨t, (exec_writeForm f s).trans (congrArg (finish s) ht), hout, hhost, ?_, fun vs hvs hsame => ?_⟩
  · rw [hadvance]
    exact congrArg (finish s) (hostWrite_of_ok hsel (v := fun _ => .ok v) rfl hf ht)
  · rw [hadvance]
    exact congrArg (finish s)
      (hostWrite_of_ok hsel (v := fun t => t.readVar vs) (State.readVar_written hvs)
        ((decodeVarWrite_eq hsame).trans hf) ht)

/-- Settles O19: the decoder's refusal and the register rule's fault are the statement's own; R246's corner case refuses
before R101 decodes. -/
theorem hostWritesTakeTheRegisterRulesStops : Obligations.HostWritesTakeTheRegisterRulesStops := by
  intro s sel r v hsel
  refine ⟨fun c info hd => ⟨?_, fun vs hvs => ?_⟩, fun hstrict hcmd hlarge hread vs hvs => ?_, fun f hf hstop => ?_⟩
  · exact congrArg (finish s) (hostWrite_of_refused hsel (v := fun _ => .ok v) rfl hd)
  · exact congrArg (finish s)
      (hostWrite_of_refused hsel (v := fun t => t.readVar vs) (State.readVar_written hvs) (decodeVarWrite_error hd))
  · obtain rfl := hcmd
    exact congrArg (finish s)
      (hostWrite_of_refused hsel (v := fun t => t.readVar vs) (State.readVar_written hvs)
        (decodeVarWrite_refused hstrict hlarge hread))
  · obtain ⟨c, info, hfault⟩ := applyWrite_of_not_writeRuns hstop
    refine ⟨c, info, (exec_writeForm f s).trans (congrArg (finish s) hfault), ?_, fun vs hvs hsame => ?_⟩
    · exact congrArg (finish s) (hostWrite_of_rule_fault hsel (v := fun _ => .ok v) rfl hf hfault)
    · exact congrArg (finish s)
        (hostWrite_of_rule_fault hsel (v := fun t => t.readVar vs) (State.readVar_written hvs)
          ((decodeVarWrite_eq hsame).trans hf) hfault)

/-- Settles O20: `RD` is the read of the register its selector names (`hostRead_of_register`), a read outside R103's
table being refused. -/
theorem hostReadsLoadTheRegister : Obligations.HostReadsLoadTheRegister := by
  intro s vd sel
  refine ⟨fun hsel => ⟨(s.draw 31).1, ?_⟩, fun hsel => ?_, fun hsel b bs hrx => ⟨(s.draw 24).1, ?_⟩, fun hsel hrx => ?_,
    fun r hsel hst hrx hcmd => ?_⟩
  · exact congrArg (finish s) (hostRead_of_register hsel vd)
  · exact congrArg (finish s) (hostRead_of_register hsel vd)
  · exact congrArg (finish s) ((hostRead_of_register hsel vd).trans
      (congrArg (fun x => x.map fun x => (x.2.setVar vd x.1).advance) (readDataCmd_cons hrx)))
  · exact congrArg (finish s) ((hostRead_of_register hsel vd).trans
      (congrArg (fun x => x.map fun x => (x.2.setVar vd x.1).advance) (readDataCmd_nil hrx)))
  · exact congrArg (finish s) (hostRead_of_writeOnly hsel hst hrx hcmd vd)

/-! ### The order of the checks (60_exceptions.md R301) -/

/-- A value of one of the three forms of `DATA_CMD` decodes to a write that pushes an entry. -/
theorem decodeWrite_dataCmd_pushes {P : Params} (hwf : P.wf = true) {v : Word}
    (h : (∃ b : Byte, v = b.setWidth 32 ||| P.startFlag ∨ v = b.setWidth 32) ∨ v = 0x100#32) :
    ∃ f e, decodeWrite P .dataCmd v = .ok f ∧ ∀ s, applyWrite f s = s.pushCmd e := by
  obtain ⟨b, rfl | rfl⟩ | rfl := h
  · exact ⟨.start b, .wr b true, decodeCmd_start hwf b, fun _ => rfl⟩
  · exact ⟨.data b, .wr b false, decodeCmd_data hwf b, fun _ => rfl⟩
  · exact ⟨.read, .rd, decodeCmd_read hwf, fun _ => rfl⟩

/-- Settles O27: each statement makes its checks in R301's order, so the first that fails is the one recorded. -/
theorem earlierCheckWins : Obligations.EarlierCheckWins := by
  intro s sel vd vs vt v
  refine ⟨fun hnone i hi => ?_, fun hsel hvs => ?_, fun hvs i hi => ?_, fun r hsel hwf hbad => ?_,
    fun r hsel hst hrx hcmd => ?_, fun hwf hdis hfull hform => ⟨?_, fun hvs hsame => ?_, fun hvs hstrict hlarge hread => ?_⟩,
    fun hen hr _ => ?_⟩
  · obtain rfl | rfl | rfl := hi
    · exact congrArg (finish s) (hostWrite_unmapped hnone _ _ s)
    · exact congrArg (finish s) (hostWrite_unmapped hnone _ _ s)
    · exact congrArg (finish s) (hostRead_unmapped hnone vd s)
  · exact congrArg (finish s) (hostWrite_of_fault (v := fun t => t.readVar vs) hsel (State.readVar_unwritten hvs) _)
  · obtain rfl | rfl | rfl | rfl | rfl := hi
    all_goals exact exec_of_first_source_unwritten rfl nofun rfl hvs
  · obtain ⟨hrefuse, -, -⟩ := hostWritesTakeTheRegisterRulesStops s sel r v hsel
    obtain ⟨hwri, hwrv⟩ := hrefuse _ _ (decodeWrite_of_unadmittedWrite hwf hbad)
    exact ⟨_, hwri, hwrv vs⟩
  · exact congrArg (finish s) (hostRead_of_writeOnly hsel hst hrx hcmd vd)
  · obtain ⟨f, e, hf, hpush⟩ := decodeWrite_dataCmd_pushes hwf hform
    exact congrArg (finish s) (hostWrite_of_rule_fault (selectorRegister_selector .dataCmd) (v := fun _ => .ok v) rfl hf
      ((hpush s).trans (State.pushCmd_of_disabled hdis e)))
  · obtain ⟨f, e, hf, hpush⟩ := decodeWrite_dataCmd_pushes hwf hform
    have hd : decodeVarWrite s.cfg .dataCmd v = .ok f := by
      refine (decodeVarWrite_eq ?_).trans hf
      exact hsame.imp_right Or.inr
    exact congrArg (finish s) (hostWrite_of_rule_fault (selectorRegister_selector .dataCmd) (v := fun t => t.readVar vs)
      (State.readVar_written hvs) hd ((hpush s).trans (State.pushCmd_of_disabled hdis e)))
  · obtain ⟨-, hcorner, -⟩ := hostWritesTakeTheRegisterRulesStops s 0x02#8 .dataCmd v (selectorRegister_selector .dataCmd)
    exact hcorner hstrict rfl hlarge hread vs hvs
  · obtain ⟨r, hm⟩ := State.cfgMissing_of_not_ready hr
    exact ⟨r, (State.engineStep_of_enabled hen).trans (State.configured_missing hm)⟩

/-! ### The frames of the instructions -/

/-- Settles O30: a stop changes no variable, and `InstrFrame.var` speaks of the rest. -/
theorem onlyTheDestinationVariableChanges : Obligations.OnlyTheDestinationVariableChanges := by
  intro i s t j h hj
  obtain hframe | ⟨c, info, rfl⟩ | ⟨c, info, rfl⟩ := exec_next h
  · exact hframe.var j hj
  · rfl
  · rfl

/-- Settles O31: a stop changes none of the parts named, and `InstrFrame` speaks of the rest. -/
theorem eachFamilyLeavesTheOthersStateAlone : Obligations.EachFamilyLeavesTheOthersStateAlone := by
  intro i s t h
  obtain hframe | ⟨c, info, rfl⟩ | ⟨c, info, rfl⟩ := exec_next h
  · exact ⟨hframe.nowin, fun hbus => ⟨hframe.bus hbus, hframe.env⟩⟩
  · exact ⟨fun _ => ⟨rfl, rfl, rfl⟩, fun _ => ⟨rfl, rfl, rfl, rfl, rfl⟩⟩
  · exact ⟨fun _ => ⟨rfl, rfl, rfl⟩, fun _ => ⟨rfl, rfl, rfl, rfl, rfl⟩⟩

/-- Where nothing is recorded, recording changes the record. -/
theorem State.raise_out_ne {s : State} (h : s.out = { fault := none, refused := none }) (c : FaultCode) (info : Info) :
    (s.raise c info).out ≠ s.out := by
  rw [State.raise, h]
  exact nofun

theorem State.refuse_out_ne {s : State} (h : s.out = { fault := none, refused := none }) (c : RefusalCode) (info : Info) :
    (s.refuse c info).out ≠ s.out := by
  rw [State.refuse, h]
  exact nofun

/-- Settles O32: `InstrFrame` where the instruction does not stop; a stop changes the record and nothing of the host. -/
theorem statementsMoveToTheNext : Obligations.StatementsMoveToTheNext := by
  intro i s t hs h
  obtain hframe | ⟨c, info, rfl⟩ | ⟨c, info, rfl⟩ := exec_next h
  · refine ⟨fun hbus hjmp hbeq hbne hbltu hhalt _ => hframe.pc hbus hjmp hbeq hbne hbltu hhalt, fun hne => ?_,
      fun hne => ?_⟩
    · exact not_not.mp fun hi => hne (hframe.halted hi)
    · exact or_iff_not_imp_left.mpr fun htxb => not_not.mp fun htxe => hne (hframe.inTxn htxb htxe)
  · exact ⟨fun _ _ _ _ _ _ hout => absurd hout (State.raise_out_ne hs c info), fun hne => absurd rfl hne,
      fun hne => absurd rfl hne⟩
  · exact ⟨fun _ _ _ _ _ _ hout => absurd hout (State.refuse_out_ne hs c info), fun hne => absurd rfl hne,
      fun hne => absurd rfl hne⟩

/-- What an instruction leaves of the controller, whether it completes or stops. -/
theorem exec_controllerFrame {i : Instr} {s t : State} (h : exec i s = .next t) :
    ControllerFrame s t ∧ t.cfg = s.cfg ∧ t.prog = s.prog := by
  obtain hframe | ⟨c, info, rfl⟩ | ⟨c, info, rfl⟩ := exec_next h
  · exact ⟨hframe.ctl, hframe.cfg, hframe.prog⟩
  · exact ⟨.of_same rfl rfl rfl, rfl, rfl⟩
  · exact ⟨.of_same rfl rfl rfl, rfl, rfl⟩

/-- Settles O33: the controller's frame. -/
theorem instructionsLeaveTheEngineAlone : Obligations.InstructionsLeaveTheEngineAlone := by
  intro i s t h
  obtain ⟨hframe, -, -⟩ := exec_controllerFrame h
  exact ⟨hframe.en, hframe.ph, hframe.ab, hframe.log, hframe.cmd.imp_right fun ⟨_, _, he⟩ => he, hframe.rx⟩

end Sys2Proof.Machine
end

section
/-! PROOFS of the bus-engine family (41_bus_engine.md), second part: the acknowledgements (R183 to R185), taking a START, a
DATA and a READ entry (R173 to R175, R177), which steps are open (R187, R189, R190), the SCL counts (R179). -/

namespace Sys2Proof.Machine

/-! ### The acknowledgement (R184, R185) -/

theorem State.ackAssured_iff (s : State) (a : Addr7) :
    s.ackAssured a = true ↔ s.cfg.assumeAck = true ∧ s.muxRouted = true ∧ a = s.cfg.accelAddr7 := by
  simp [State.ackAssured, and_assoc]

theorem State.askAck_of_assured {s : State} {a : Addr7} (h : s.ackAssured a = true) (p : AckPhase) :
    s.askAck a p = (true, s) := if_pos h

section Free
variable {s : State} {a : Addr7} (h : s.ackAssured a = false)
include h

theorem State.askAck_of_no_answers (hacks : s.env.acks = []) (p : AckPhase) :
    s.askAck a p = (Config.freeAck s.ctl.busLog p, s) := by
  rw [State.askAck, if_neg (ne_true_of_eq_false h), hacks]

theorem State.askAck_of_answer {k : Bool} {ks : List Bool} (hacks : s.env.acks = k :: ks) (p : AckPhase) :
    s.askAck a p = (k, { s with env := { s.env with acks := ks } }) := by
  rw [State.askAck, if_neg (ne_true_of_eq_false h), hacks]

end Free

/-- Settles O40: `ackAssured` decides, and without it the given answers do. -/
theorem acknowledgementIsFreeUnlessAssumed : Obligations.AcknowledgementIsFreeUnlessAssumed := by
  intro s a p
  refine ⟨fun hack hmux haddr => State.askAck_of_assured ((s.ackAssured_iff a).mpr ⟨hack, hmux, haddr⟩) p, fun hfree => ?_⟩
  have hnot : s.ackAssured a = false := by
    refine Bool.of_not_eq_true fun hassured => ?_
    obtain ⟨hack, hmux, haddr⟩ := (s.ackAssured_iff a).mp hassured
    obtain h | h | h := hfree
    · exact absurd hack (ne_true_of_eq_false h)
    · exact absurd hmux (ne_true_of_eq_false h)
    · exact h haddr
  exact ⟨fun hacks => State.askAck_of_no_answers hnot hacks p, fun k ks hacks => State.askAck_of_answer hnot hacks p⟩

/-! ### The state after an entry (R173 to R175, R177) -/

/-- The state after an entry is taken: it leaves the FIFO and the transaction is open in phase `ph`; or, where an
acknowledgement is missing (`ok` is false), the abort of R177. -/
def State.afterEntry (s : State) (rest : List CmdEntry) (ok : Bool) (ph : Phase) (rx : List Byte) (log : List BusEvent)
    (acks : List Bool) (bytes : List Byte) : State :=
  { s with
    ctl := { s.ctl with
      cmdFifo := if ok then rest else []
      phase := if ok then ph else .idle
      abortLatch := !ok
      rxFifo := rx
      busLog := log }
    env := { s.env with acks := acks, rxBytes := bytes } }

/-- The event of an address phase: START on an idle bus, else a repeated START. -/
def addressEvent (p : Phase) (a : Addr7) (dir : BusDir) (k : Bool) : BusEvent :=
  if p = .idle then .start a dir k else .restart a dir k

/-- The address phase of an entry that goes on where the bus is open already in its phase `opened`. -/
def openingEvents (p opened : Phase) (a : Addr7) (dir : BusDir) (k : Bool) : List BusEvent :=
  if p = .idle then [.start a dir k] else if p = opened then [] else [.restart a dir k]

theorem openingEvents_of_open {p opened : Phase} (h : p = opened) (hidle : opened ≠ .idle) (a : Addr7) (dir : BusDir)
    (k : Bool) : openingEvents p opened a dir k = [] :=
  (if_neg (h ▸ hidle)).trans (if_pos h)

theorem openingEvents_of_ne {p opened : Phase} (h : p ≠ opened) (a : Addr7) (dir : BusDir) (k : Bool) :
    openingEvents p opened a dir k = [addressEvent p a dir k] := by
  unfold openingEvents addressEvent
  rw [if_neg h]
  split <;> rfl

/-- The events of a byte sent after an address phase: the byte where the address was acknowledged, and the STOP of R177
where an acknowledgement is missing. -/
def sendEvents (d : Byte) (k1 k2 : Bool) : List BusEvent :=
  (if k1 then [.tx d k2] else []) ++ (if k1 && k2 then [] else [.stop])

/-- The events of a byte received after an address phase. -/
def receiveEvents (b : Byte) (k : Bool) : List BusEvent := if k then [.rx b] else [.stop]

section Entry
variable {s : State} (hab : s.ctl.abortLatch = false) (a : Addr7)

/-- A missing acknowledgement of an address. -/
theorem State.nack_addressed (ph : Phase) (acks : List Bool) (e : BusEvent) :
    State.nack { s with ctl := { s.ctl with busLog := s.ctl.busLog ++ [e] }, env := { s.env with acks := acks } }
      = s.afterEntry s.ctl.cmdFifo false ph s.ctl.rxFifo (s.ctl.busLog ++ [e] ++ [.stop]) acks s.env.rxBytes := rfl

include hab

/-- A byte sent on an open bus. -/
theorem State.sendByte_afterEntry (d : Byte) :
    ∃ k acks, (s.ackAssured a = true → k = true) ∧
      (s.ackAssured a = false → s.env.acks = [] → k = Config.freeAck s.ctl.busLog (.data d)) ∧
      s.sendByte a d = s.afterEntry s.ctl.cmdFifo k .write s.ctl.rxFifo (s.ctl.busLog ++ sendEvents d true k) acks
        s.env.rxBytes := by
  obtain ⟨k, acks, hassured, hfree, h⟩ := s.sendByte_spec a d
  refine ⟨k, acks, hassured, hfree, h.trans ?_⟩
  rw [hab, List.append_assoc]
  cases k <;> rfl

/-- A byte sent after its address phase. -/
theorem State.addressed_sendByte (d : Byte) :
    ∃ k1 k2 acks, (s.ackAssured a = true → k1 = true ∧ k2 = true) ∧
      (s.ackAssured a = false → s.env.acks = [] → k1 = Config.freeAck s.ctl.busLog (.addr a .w) ∧
        k2 = Config.freeAck (s.ctl.busLog ++ [addressEvent s.ctl.phase a .w k1]) (.data d)) ∧
      (s.addressed a .w fun t => t.sendByte a d) =
        s.afterEntry s.ctl.cmdFifo (k1 && k2) .write s.ctl.rxFifo
          (s.ctl.busLog ++ [addressEvent s.ctl.phase a .w k1] ++ sendEvents d k1 k2) acks s.env.rxBytes := by
  obtain ⟨k1, acks, hassured, hfree, h⟩ := s.addressed_spec a .w fun t => t.sendByte a d
  cases k1 with
  | false =>
    refine ⟨false, _, acks, fun hk => absurd (hassured hk) Bool.false_ne_true, fun hk hacks => ⟨(hfree hk hacks).1, rfl⟩, ?_⟩
    exact h.trans (State.nack_addressed _ acks _)
  | true =>
    obtain ⟨k2, acks', hassured', hfree', h'⟩ := State.sendByte_afterEntry (a := a) (d := d) (s :=
      { s with
        ctl := { s.ctl with busLog := s.ctl.busLog ++ [addressEvent s.ctl.phase a .w true] }
        env := { s.env with acks := acks } }) hab
    refine ⟨true, k2, acks', fun hk => ⟨rfl, hassured' hk⟩, fun hk hacks => ?_, h.trans h'⟩
    obtain ⟨hk1, hnil⟩ := hfree hk hacks
    exact ⟨hk1, hfree' hk hnil⟩

/-- A byte received on an open bus. -/
theorem State.receiveByte_afterEntry :
    ∃ b bytes, (s.env.rxBytes = [] → b = Config.freeByte s.ctl.busLog) ∧
      s.receiveByte = s.afterEntry s.ctl.cmdFifo true .read (s.ctl.rxFifo ++ [b]) (s.ctl.busLog ++ receiveEvents b true)
        s.env.acks bytes := by
  obtain ⟨b, bytes, hfree, h⟩ := s.receiveByte_spec
  refine ⟨b, bytes, hfree, h.trans ?_⟩
  simp [State.afterEntry, receiveEvents, hab]

/-- A byte received after its address phase. -/
theorem State.addressed_receiveByte :
    ∃ k b acks bytes, (s.ackAssured a = true → k = true) ∧
      (s.ackAssured a = false → s.env.acks = [] → k = Config.freeAck s.ctl.busLog (.addr a .r)) ∧
      (s.env.rxBytes = [] → b = Config.freeByte (s.ctl.busLog ++ [addressEvent s.ctl.phase a .r k])) ∧
      s.addressed a .r State.receiveByte =
        s.afterEntry s.ctl.cmdFifo k .read (if k then s.ctl.rxFifo ++ [b] else s.ctl.rxFifo)
          (s.ctl.busLog ++ [addressEvent s.ctl.phase a .r k] ++ receiveEvents b k) acks bytes := by
  obtain ⟨k, acks, hassured, hfree, h⟩ := s.addressed_spec a .r State.receiveByte
  cases k with
  | false =>
    refine ⟨false, _, acks, s.env.rxBytes, hassured, fun hk hacks => (hfree hk hacks).1, fun _ => rfl, ?_⟩
    exact h.trans (State.nack_addressed _ acks _)
  | true =>
    obtain ⟨b, bytes, hfree', h'⟩ := State.receiveByte_afterEntry (s :=
      { s with
        ctl := { s.ctl with busLog := s.ctl.busLog ++ [addressEvent s.ctl.phase a .r true] }
        env := { s.env with acks := acks } }) hab
    exact ⟨true, b, acks, bytes, hassured, fun hk hacks => (hfree hk hacks).1, hfree', h.trans h'⟩

end Entry

/-- An entry at the head of the FIFO is taken off it. -/
theorem State.popCmd_of_cons {s : State} {e : CmdEntry} {rest : List CmdEntry} (h : s.ctl.cmdFifo = e :: rest) :
    s.popCmd = { s with ctl := { s.ctl with cmdFifo := rest } } := by
  rw [State.popCmd, h, List.tail_cons]

/-- R175: a READ entry at the head of the FIFO is taken where the engine runs. -/
theorem State.engineStep_takeRead {s : State} {rest : List CmdEntry} (hen : s.ctl.enStatus = true)
    (hab : s.ctl.abortLatch = false) (hq : s.ctl.cmdFifo = .rd :: rest) : s.engineStep .takeRead = s.takeRead :=
  State.engineStep_of_enabled (State.engineEnabled_takeRead_iff.mpr ⟨hen, hab, by rw [hq]; rfl⟩)

/-- Settles O36: the configuration test, then an address phase and a byte sent (`State.addressed_sendByte`). -/
theorem takingAStartEntry : Obligations.TakingAStartEntry := by
  intro s b rest hen hab hq
  rw [State.engineStep_takeStart hen hab hq]
  refine ⟨fun hr => ?_, fun a hr ha => ?_⟩
  · obtain ⟨r, hm⟩ := State.cfgMissing_of_not_ready hr
    exact ⟨r, State.configured_missing hm⟩
  · rw [State.takeStart, State.configured_ready hr ha, State.popCmd_of_cons hq]
    obtain ⟨k1, k2, acks, hassured, hfree, h⟩ :=
      State.addressed_sendByte (s := { s with ctl := { s.ctl with cmdFifo := rest } }) hab a b
    refine ⟨k1, k2, acks, hassured, hfree, h.trans ?_⟩
    rw [sendEvents, ← List.append_assoc]
    rfl

/-- Settles O37: the configuration test, then a byte sent, after an address phase unless a write is open. -/
theorem takingADataEntry : Obligations.TakingADataEntry := by
  intro s d rest hen hab hq
  rw [State.engineStep_takeData hen hab hq]
  refine ⟨fun hr => ?_, fun a hr ha => ?_⟩
  · obtain ⟨r, hm⟩ := State.cfgMissing_of_not_ready hr
    exact ⟨r, State.configured_missing hm⟩
  · rw [State.takeData, State.configured_ready hr ha, State.popCmd_of_cons hq]
    -- the statement's events, by their names
    change ∃ k1 k2 acks, _ ∧ _ ∧ (_ → _ → _ ∧ k2 = Config.freeAck (_ ++ openingEvents s.ctl.phase .write a .w k1) _) ∧
      _ = State.afterEntry s rest (k1 && k2) .write s.ctl.rxFifo
        (s.ctl.busLog ++ openingEvents s.ctl.phase .write a .w k1 ++ _ ++ _) acks s.env.rxBytes
    by_cases hw : s.ctl.phase = .write
    · obtain ⟨k2, acks, hassured, hfree, h⟩ :=
        State.sendByte_afterEntry (s := { s with ctl := { s.ctl with cmdFifo := rest } }) hab a d
      refine ⟨true, k2, acks, fun hk => ⟨rfl, hassured hk⟩, fun _ => rfl, fun hk hacks => ⟨fun hne => absurd hw hne, ?_⟩, ?_⟩
      · rw [openingEvents_of_open hw nofun, List.append_nil]
        exact hfree hk hacks
      · rw [openingEvents_of_open hw nofun, List.append_nil, if_pos hw, List.append_assoc]
        exact h
    · obtain ⟨k1, k2, acks, hassured, hfree, h⟩ :=
        State.addressed_sendByte (s := { s with ctl := { s.ctl with cmdFifo := rest } }) hab a d
      refine ⟨k1, k2, acks, hassured, fun hopen => absurd hopen hw, fun hk hacks => ?_, ?_⟩
      · obtain ⟨hk1, hk2⟩ := hfree hk hacks
        rw [openingEvents_of_ne hw]
        exact ⟨fun _ => hk1, hk2⟩
      · rw [openingEvents_of_ne hw, if_neg hw, List.append_assoc _ (if k1 then _ else _)]
        exact h

/-- Settles O38: the configuration test and the overflow test, then a byte received, after an address phase unless a read
is open. -/
theorem takingAReadEntry : Obligations.TakingAReadEntry := by
  intro s rest hen hab hq
  rw [State.engineStep_takeRead hen hab hq]
  refine ⟨fun hr => ?_, State.takeRead_of_full, fun a hr ha hroom => ?_⟩
  · obtain ⟨r, hm⟩ := State.cfgMissing_of_not_ready hr
    exact ⟨r, State.configured_missing hm⟩
  · rw [State.takeRead, State.configured_ready hr ha, if_neg hroom, State.popCmd_of_cons hq]
    -- the statement's events, by their names
    change ∃ k b acks bytes, _ ∧ _ ∧ _ ∧ (_ → b = Config.freeByte (_ ++ openingEvents s.ctl.phase .read a .r k)) ∧
      _ = State.afterEntry s rest k .read _
        (s.ctl.busLog ++ openingEvents s.ctl.phase .read a .r k ++ receiveEvents b k) acks bytes
    by_cases hread : s.ctl.phase = .read
    · obtain ⟨b, bytes, hfree, h⟩ :=
        State.receiveByte_afterEntry (s := { s with ctl := { s.ctl with cmdFifo := rest } }) hab
      refine ⟨true, b, s.env.acks, bytes, fun _ => rfl, fun _ => rfl, fun _ _ hne => absurd hread hne, ?_, ?_⟩
      · rw [openingEvents_of_open hread nofun, List.append_nil]
        exact hfree
      · rw [openingEvents_of_open hread nofun, List.append_nil, if_pos hread]
        exact h
    · obtain ⟨k, b, acks, bytes, hassured, hfree, hbyte, h⟩ :=
        State.addressed_receiveByte (s := { s with ctl := { s.ctl with cmdFifo := rest } }) hab a
      refine ⟨k, b, acks, bytes, hassured, fun hopen => absurd hopen hread, fun hk hacks _ => hfree hk hacks, ?_, ?_⟩
      · rw [openingEvents_of_ne hread]
        exact hbyte
      · rw [openingEvents_of_ne hread, if_neg hread]
        exact h

/-! ### Which steps are open (R187, R189, R190) -/

/-- The one step but the disable sync that may be open: enable sync while not enabled, else what the head of the command
FIFO and the abort latch ask for. -/
def State.openStep (s : State) : EngineStep :=
  if s.ctl.enStatus = false then .enableSync
  else match s.ctl.cmdFifo with
    | [] => .stop
    | entry :: _ =>
      if s.ctl.abortLatch then .discard
      else match entry with
        | .wr _ true => .takeStart
        | .wr _ false => .takeData
        | .rd => .takeRead

theorem State.eq_openStep {s : State} {e : EngineStep} (h : s.engineEnabled e = true) (he : e ≠ .disableSync) :
    e = s.openStep := by
  cases e with
  | disableSync => exact absurd rfl he
  | enableSync =>
    obtain ⟨-, hen⟩ := State.engineEnabled_enableSync_iff.mp h
    simp [State.openStep, hen]
  | takeStart =>
    obtain ⟨hen, hab, b, hhead⟩ := State.engineEnabled_takeStart_iff.mp h
    obtain ⟨rest, hq⟩ := List.head?_eq_some_iff.mp hhead
    simp [State.openStep, hen, hab, hq]
  | takeData =>
    obtain ⟨hen, hab, d, hhead⟩ := State.engineEnabled_takeData_iff.mp h
    obtain ⟨rest, hq⟩ := List.head?_eq_some_iff.mp hhead
    simp [State.openStep, hen, hab, hq]
  | takeRead =>
    obtain ⟨hen, hab, hhead⟩ := State.engineEnabled_takeRead_iff.mp h
    obtain ⟨rest, hq⟩ := List.head?_eq_some_iff.mp hhead
    simp [State.openStep, hen, hab, hq]
  | stop =>
    obtain ⟨hen, hq, -, -⟩ := State.engineEnabled_stop_iff.mp h
    simp [State.openStep, hen, hq]
  | discard =>
    obtain ⟨hen, hab, hq⟩ := State.engineEnabled_discard_iff.mp h
    obtain ⟨entry, rest, hq⟩ := List.exists_cons_of_ne_nil hq
    simp [State.openStep, hen, hab, hq]

/-- R189: with an entry pending the open step is a fair one. -/
theorem State.exists_fair_step {s : State} (hen : s.ctl.enStatus = true) (hq : s.ctl.cmdFifo ≠ []) :
    ∃ e : EngineStep, fairStep e = true ∧ s.engineEnabled e = true := by
  cases hab : s.ctl.abortLatch with
  | true => exact ⟨.discard, rfl, State.engineEnabled_discard_iff.mpr ⟨hen, hab, hq⟩⟩
  | false =>
    obtain ⟨entry, rest, hq⟩ := List.exists_cons_of_ne_nil hq
    have hhead : s.ctl.cmdFifo.head? = some entry := by rw [hq]; rfl
    match entry, hhead with
    | .wr b true, hhead => exact ⟨.takeStart, rfl, State.engineEnabled_takeStart_iff.mpr ⟨hen, hab, b, hhead⟩⟩
    | .wr d false, hhead => exact ⟨.takeData, rfl, State.engineEnabled_takeData_iff.mpr ⟨hen, hab, d, hhead⟩⟩
    | .rd, hhead => exact ⟨.takeRead, rfl, State.engineEnabled_takeRead_iff.mpr ⟨hen, hab, hhead⟩⟩

/-- Settles O41: every open step but the disable sync is `State.openStep`. -/
theorem whichEngineStepsAreOpen : Obligations.WhichEngineStepsAreOpen := by
  refine fun s => ⟨fun hen e he => ?_, State.exists_fair_step, fun e f he hf hne => ?_⟩
  · have hdis : e ≠ .disableSync := by
      rintro rfl
      obtain ⟨-, hen'⟩ := State.engineEnabled_disableSync_iff.mp he
      exact absurd hen' (ne_true_of_eq_false hen)
    exact (State.eq_openStep he hdis).trans (if_pos hen)
  · refine or_iff_not_imp_left.mpr fun hdis => not_not.mp fun hdis' => hne ?_
    exact (State.eq_openStep he hdis).trans (State.eq_openStep hf hdis').symm

/-! ### The SCL counts (R179) -/

/-- The state with other SCL counts written. -/
def State.withCounts (s : State) (h l : Count) : State :=
  { s with ctl := { s.ctl with hcnt := .written h, lcnt := .written l } }

theorem State.askAck_withCounts (s : State) (h l : Count) (a : Addr7) (p : AckPhase) :
    (s.withCounts h l).askAck a p = ((s.askAck a p).1, (s.askAck a p).2.withCounts h l) := by
  have hsame : (s.withCounts h l).ackAssured a = s.ackAssured a := rfl
  cases hassured : s.ackAssured a with
  | true => rw [State.askAck_of_assured (hsame.trans hassured), State.askAck_of_assured hassured]
  | false =>
    cases hacks : s.env.acks with
    | nil =>
      rw [State.askAck_of_no_answers (hsame.trans hassured) hacks, State.askAck_of_no_answers hassured hacks]
      rfl
    | cons k ks =>
      rw [State.askAck_of_answer (hsame.trans hassured) hacks, State.askAck_of_answer hassured hacks]
      rfl

theorem State.askByte_withCounts (s : State) (h l : Count) :
    (s.withCounts h l).askByte = (s.askByte.1, s.askByte.2.withCounts h l) := by
  have hsame : (s.withCounts h l).env.rxBytes = s.env.rxBytes := rfl
  cases hbytes : s.env.rxBytes with
  | nil => simp only [State.askByte, hsame, hbytes]; rfl
  | cons b bs => simp only [State.askByte, hsame, hbytes]; rfl

theorem State.sendByte_withCounts (s : State) (h l : Count) (a : Addr7) (d : Byte) :
    (s.withCounts h l).sendByte a d = (s.sendByte a d).withCounts h l := by
  simp only [State.sendByte, State.askAck_withCounts]
  split <;> rfl

theorem State.receiveByte_withCounts (s : State) (h l : Count) :
    (s.withCounts h l).receiveByte = s.receiveByte.withCounts h l := by
  simp only [State.receiveByte, State.askByte_withCounts]
  rfl

/-- An address phase does not use the counts where what follows it does not. -/
theorem State.addressed_withCounts (s : State) (h l : Count) (a : Addr7) (dir : BusDir) {k : State → State}
    (hk : ∀ t : State, k (t.withCounts h l) = (k t).withCounts h l) :
    (s.withCounts h l).addressed a dir k = (s.addressed a dir k).withCounts h l := by
  rcases hask : s.askAck a (.addr a dir) with ⟨ack, t⟩
  simp only [State.addressed, State.addressPhase, State.askAck_withCounts, hask]
  cases ack with
  | true => exact hk (t.logBus (addressEvent s.ctl.phase a dir true))
  | false => rfl

section Counts
variable {s : State} {hc lc : Count} (hh : s.ctl.hcnt = .written hc) (hl : s.ctl.lcnt = .written lc) (h l : Count)
include hh hl

theorem State.cfgMissing_withCounts : (s.withCounts h l).cfgMissing = s.cfgMissing := by
  simp [State.cfgMissing, State.withCounts, hh, hl]

/-- The configuration test asks of the counts only that they are written. -/
theorem State.configured_withCounts {k k' : Addr7 → State} (hk : ∀ a, k' a = (k a).withCounts h l) :
    (s.withCounts h l).configured k' = (s.configured k).withCounts h l := by
  have htar : (s.withCounts h l).ctl.tar = s.ctl.tar := rfl
  simp only [State.configured, State.cfgMissing_withCounts hh hl, htar]
  split
  · rfl
  · exact hk _
  · rfl

theorem State.takeStart_withCounts (b : Byte) : (s.withCounts h l).takeStart b = (s.takeStart b).withCounts h l :=
  State.configured_withCounts hh hl h l fun a =>
    State.addressed_withCounts s.popCmd h l a .w fun t => t.sendByte_withCounts h l a b

theorem State.takeData_withCounts (d : Byte) : (s.withCounts h l).takeData d = (s.takeData d).withCounts h l := by
  refine State.configured_withCounts hh hl h l fun a => ?_
  have hphase : (s.withCounts h l).ctl.phase = s.ctl.phase := rfl
  rw [hphase]
  split
  · exact s.popCmd.sendByte_withCounts h l a d
  · exact State.addressed_withCounts s.popCmd h l a .w fun t => t.sendByte_withCounts h l a d

theorem State.takeRead_withCounts : (s.withCounts h l).takeRead = s.takeRead.withCounts h l := by
  refine State.configured_withCounts hh hl h l fun a => ?_
  have hphase : (s.withCounts h l).ctl.phase = s.ctl.phase := rfl
  have hrx : (s.withCounts h l).ctl.rxFifo = s.ctl.rxFifo := rfl
  have hcfg : (s.withCounts h l).cfg = s.cfg := rfl
  rw [hphase, hrx, hcfg]
  split
  · rfl
  · split
    · exact s.popCmd.receiveByte_withCounts h l
    · exact State.addressed_withCounts s.popCmd h l a .r fun t => t.receiveByte_withCounts h l

theorem State.engineEffect_withCounts (e : EngineStep) :
    (s.withCounts h l).engineEffect e = (s.engineEffect e).withCounts h l := by
  have hq : (s.withCounts h l).ctl.cmdFifo = s.ctl.cmdFifo := rfl
  cases e with
  | enableSync | stop | discard => rfl
  | disableSync =>
    rw [State.engineEffect, State.engineEffect, State.disableSync_eq, State.disableSync_eq]
    rfl
  | takeStart =>
    simp only [State.engineEffect, hq]
    split
    · exact State.takeStart_withCounts hh hl h l _
    · rfl
  | takeData =>
    simp only [State.engineEffect, hq]
    split
    · exact State.takeData_withCounts hh hl h l _
    · rfl
  | takeRead => exact State.takeRead_withCounts hh hl h l

end Counts

theorem State.engineEnabled_withCounts (s : State) (h l : Count) (e : EngineStep) :
    (s.withCounts h l).engineEnabled e = s.engineEnabled e := by cases e <;> rfl

/-- Settles O43: the guards do not read the counts, and the effects only whether they are written. -/
theorem engineIgnoresTheCounts : Obligations.EngineIgnoresTheCounts := by
  intro s e hc h lc l hh hl
  change (s.withCounts h l).engineStep e = (s.engineStep e).withCounts h l
  rw [State.engineStep, State.engineStep, State.engineEnabled_withCounts]
  split
  · exact State.engineEffect_withCounts hh hl h l e
  · rfl

end Sys2Proof.Machine
end

section
/-! PROOFS of what every step keeps: what the engine's step can do, said once (41_bus_engine.md R170 to R180), the agents'
steps (43_host_program.md R242, R243), the invariants (70_reset_and_hazards.md R312, R314) and the framing of the bus log
(10_state.md R43, R45). -/

namespace Sys2Proof.Machine

/-! ### Where the bus stands after more events (R45) -/

/-- Where the bus stands after more events. -/
def busFrameAfter (f : Option BusFrame) (events : List BusEvent) : Option BusFrame :=
  events.foldl (fun f e => f.bind fun g => g.after e) f

theorem busFrameAfter_append (f : Option BusFrame) (xs ys : List BusEvent) :
    busFrameAfter f (xs ++ ys) = busFrameAfter (busFrameAfter f xs) ys := List.foldl_append

theorem busFrame_append (xs ys : List BusEvent) : busFrame (xs ++ ys) = busFrameAfter (busFrame xs) ys :=
  busFrameAfter_append _ xs ys

/-- A STOP ends an open transaction. -/
theorem busFrameAfter_stop {p : Phase} (h : p ≠ .idle) : busFrameAfter (some p.frame) [.stop] = some Phase.idle.frame := by
  cases p with
  | idle => exact absurd rfl h
  | write | read => rfl

/-- Where an address phase in direction `dir` leaves the bus. -/
def addressedFrame (dir : BusDir) (k : Bool) : BusFrame := if k then .opened dir else .nacked

/-- An address phase may follow any phase. -/
theorem busFrameAfter_address (p : Phase) (a : Addr7) (dir : BusDir) (k : Bool) :
    busFrameAfter (some p.frame) [addressEvent p a dir k] = some (addressedFrame dir k) := by
  cases p <;> rfl

/-- So may the opening of an entry that goes on where its phase is open already. -/
theorem busFrameAfter_opening {p opened : Phase} {dir : BusDir} (hopen : opened.frame = .opened dir) (a : Addr7) {k : Bool}
    (hk : p = opened → k = true) :
    busFrameAfter (some p.frame) (openingEvents p opened a dir k) = some (addressedFrame dir k) := by
  by_cases h : p = opened
  · have hidle : opened ≠ .idle := by
      rintro rfl
      cases hopen
    rw [openingEvents_of_open h hidle, hk h, h, hopen]
    rfl
  · rw [openingEvents_of_ne h]
    exact busFrameAfter_address p a dir k

theorem busFrameAfter_send (d : Byte) (k1 k2 : Bool) :
    busFrameAfter (some (addressedFrame .w k1)) (sendEvents d k1 k2)
      = some (if k1 && k2 then Phase.write else .idle).frame := by
  cases k1 <;> cases k2 <;> rfl

theorem busFrameAfter_receive (b : Byte) (k : Bool) :
    busFrameAfter (some (addressedFrame .r k)) (receiveEvents b k) = some (if k then Phase.read else .idle).frame := by
  cases k <;> rfl

/-! ### What the engine's step can do -/

/-- What a step `e` of the engine makes of `s`: nothing where its guard fails, a recorded fault, or the effect of its rule.
Of the events an entry logs only where they leave the bus is kept. -/
inductive EngineMove (s : State) : EngineStep → State → Prop
  | pass (e : EngineStep) : EngineMove s e s
  | fault (e : EngineStep) (c : FaultCode) (info : Info) : EngineMove s e (s.raise c info)
  | enableSync (hreq : s.ctl.enReq = true) (hen : s.ctl.enStatus = false) :
      EngineMove s .enableSync { s with ctl := { s.ctl with enStatus := true } }
  | disableSync (hreq : s.ctl.enReq = false) (hen : s.ctl.enStatus = true) :
      EngineMove s .disableSync
        { s with ctl := { s.ctl with
            phase := .idle, cmdFifo := [], rxFifo := [], abortLatch := false, enStatus := false
            busLog := if s.ctl.phase = .idle then s.ctl.busLog else s.ctl.busLog ++ [.stop] } }
  | take {e : EngineStep} {entry : CmdEntry} {rest : List CmdEntry} {rx : List Byte} {events : List BusEvent}
      (ok : Bool) (ph : Phase) (acks : List Bool) (bytes : List Byte)
      (he : e = .takeStart ∨ e = .takeData ∨ e = .takeRead)
      (hen : s.ctl.enStatus = true) (hab : s.ctl.abortLatch = false) (hq : s.ctl.cmdFifo = entry :: rest)
      (hrx : rx = s.ctl.rxFifo ∨ s.ctl.rxFifo.length ≠ s.cfg.rxDepth ∧ ∃ b, rx = s.ctl.rxFifo ++ [b])
      (hevents : busFrameAfter (some s.ctl.phase.frame) events = some (if ok then ph else .idle).frame) :
      EngineMove s e (s.afterEntry rest ok ph rx (s.ctl.busLog ++ events) acks bytes)
  | stop (hq : s.ctl.cmdFifo = []) (hen : s.ctl.enStatus = true) (hph : s.ctl.phase ≠ .idle) :
      EngineMove s .stop { s with ctl := { s.ctl with busLog := s.ctl.busLog ++ [.stop], phase := .idle } }
  | discard {entry : CmdEntry} {rest : List CmdEntry} (hen : s.ctl.enStatus = true) (hq : s.ctl.cmdFifo = entry :: rest) :
      EngineMove s .discard { s with ctl := { s.ctl with cmdFifo := rest } }

section Take
variable {s : State} {rest : List CmdEntry} (hen : s.ctl.enStatus = true) (hab : s.ctl.abortLatch = false)
include hen hab

/-- Taking a START entry (R173). -/
theorem takeStart_move {b : Byte} (hq : s.ctl.cmdFifo = .wr b true :: rest) :
    EngineMove s .takeStart (s.engineStep .takeStart) := by
  obtain ⟨hmissing, htaken⟩ := takingAStartEntry s b rest hen hab hq
  cases hr : s.cfgReady with
  | false =>
    obtain ⟨r, h⟩ := hmissing hr
    rw [h]
    exact .fault _ _ _
  | true =>
    obtain ⟨a, ha⟩ := State.tar_of_ready hr
    obtain ⟨k1, k2, acks, -, -, h⟩ := htaken a hr ha
    rw [h, List.append_assoc, List.append_assoc]
    refine .take (k1 && k2) .write acks s.env.rxBytes (.inl rfl) hen hab hq (.inl rfl) ?_
    rw [busFrameAfter_append]
    exact (congrArg (busFrameAfter · _) (busFrameAfter_address _ a .w k1)).trans (busFrameAfter_send b k1 k2)

/-- Taking a DATA entry (R174). -/
theorem takeData_move {d : Byte} (hq : s.ctl.cmdFifo = .wr d false :: rest) :
    EngineMove s .takeData (s.engineStep .takeData) := by
  obtain ⟨hmissing, htaken⟩ := takingADataEntry s d rest hen hab hq
  cases hr : s.cfgReady with
  | false =>
    obtain ⟨r, h⟩ := hmissing hr
    rw [h]
    exact .fault _ _ _
  | true =>
    obtain ⟨a, ha⟩ := State.tar_of_ready hr
    obtain ⟨k1, k2, acks, -, hopen, -, h⟩ := htaken a hr ha
    rw [h, List.append_assoc, List.append_assoc]
    refine .take (k1 && k2) .write acks s.env.rxBytes (.inr (.inl rfl)) hen hab hq (.inl rfl) ?_
    rw [busFrameAfter_append]
    exact (congrArg (busFrameAfter · _) (busFrameAfter_opening rfl a hopen)).trans (busFrameAfter_send d k1 k2)

/-- Taking a READ entry (R175, R180). -/
theorem takeRead_move (hq : s.ctl.cmdFifo = .rd :: rest) : EngineMove s .takeRead (s.engineStep .takeRead) := by
  obtain ⟨hmissing, hfull, htaken⟩ := takingAReadEntry s rest hen hab hq
  cases hr : s.cfgReady with
  | false =>
    obtain ⟨r, h⟩ := hmissing hr
    rw [h]
    exact .fault _ _ _
  | true =>
    by_cases hroom : s.ctl.rxFifo.length = s.cfg.rxDepth
    · rw [hfull hr hroom]
      exact .fault _ _ _
    · obtain ⟨a, ha⟩ := State.tar_of_ready hr
      obtain ⟨k, b, acks, bytes, -, hopen, -, -, h⟩ := htaken a hr ha hroom
      rw [h, List.append_assoc]
      refine .take k .read acks bytes (.inr (.inr rfl)) hen hab hq ?_ ?_
      · cases k with
        | false => exact .inl rfl
        | true => exact .inr ⟨hroom, b, rfl⟩
      · rw [busFrameAfter_append]
        exact (congrArg (busFrameAfter · _) (busFrameAfter_opening rfl a hopen)).trans (busFrameAfter_receive b k)

end Take

theorem engineStep_move (s : State) (e : EngineStep) : EngineMove s e (s.engineStep e) := by
  obtain ⟨henable, hdisable, hstop, hdiscard⟩ := syncStopAndDiscard s
  cases hg : s.engineEnabled e with
  | false =>
    rw [State.engineStep_of_not_enabled hg]
    exact .pass e
  | true =>
    cases e with
    | enableSync =>
      obtain ⟨hreq, hen⟩ := State.engineEnabled_enableSync_iff.mp hg
      rw [henable hreq hen]
      exact .enableSync hreq hen
    | disableSync =>
      obtain ⟨hreq, hen⟩ := State.engineEnabled_disableSync_iff.mp hg
      rw [hdisable hreq hen]
      exact .disableSync hreq hen
    | takeStart =>
      obtain ⟨hen, hab, b, hhead⟩ := State.engineEnabled_takeStart_iff.mp hg
      obtain ⟨rest, hq⟩ := List.head?_eq_some_iff.mp hhead
      exact takeStart_move hen hab hq
    | takeData =>
      obtain ⟨hen, hab, d, hhead⟩ := State.engineEnabled_takeData_iff.mp hg
      obtain ⟨rest, hq⟩ := List.head?_eq_some_iff.mp hhead
      exact takeData_move hen hab hq
    | takeRead =>
      obtain ⟨hen, hab, hhead⟩ := State.engineEnabled_takeRead_iff.mp hg
      obtain ⟨rest, hq⟩ := List.head?_eq_some_iff.mp hhead
      exact takeRead_move hen hab hq
    | stop =>
      obtain ⟨hen, hq, hph, hgap⟩ := State.engineEnabled_stop_iff.mp hg
      rw [hstop hen hq hph hgap]
      exact .stop hq hen hph
    | discard =>
      obtain ⟨hen, hab, hq⟩ := State.engineEnabled_discard_iff.mp hg
      obtain ⟨entry, rest, hq⟩ := List.exists_cons_of_ne_nil hq
      rw [hdiscard entry rest hen hab hq]
      exact .discard hen hq

/-! ### The engine's frame (R309) -/

/-- What no step of the engine changes. -/
structure EngineFrame (s t : State) : Prop where
  host : t.host = s.host
  sys : t.sys = s.sys
  cfg : t.cfg = s.cfg
  prog : t.prog = s.prog
  con : t.ctl.con = s.ctl.con
  tar : t.ctl.tar = s.ctl.tar
  hcnt : t.ctl.hcnt = s.ctl.hcnt
  lcnt : t.ctl.lcnt = s.ctl.lcnt
  enReq : t.ctl.enReq = s.ctl.enReq
  refused : t.out.refused = s.out.refused

theorem EngineMove.frame {s t : State} {e : EngineStep} (h : EngineMove s e t) : EngineFrame s t := by
  cases h
  all_goals exact ⟨rfl, rfl, rfl, rfl, rfl, rfl, rfl, rfl, rfl, rfl⟩

/-- Settles O42: no effect `EngineMove` lists changes any of them. -/
theorem engineLeavesTheRestAlone : Obligations.EngineLeavesTheRestAlone := by
  intro s e
  have h := (engineStep_move s e).frame
  exact ⟨h.host, h.sys, h.cfg, h.prog, h.con, h.tar, h.hcnt, h.lcnt, h.enReq, h.refused⟩

/-! ### The step of each agent (R170, R242, R243, R261) -/

/-- The step of a host that takes a statement is what the statement fetched makes of the state with the turn taken. -/
theorem step_statement {s : State} (hs : s.HostTakesStatement) : step s =
    match s.fetch with
    | .ok i => exec i s.takeTurn
    | .fault c info => .next (s.takeTurn.raise c info)
    | .refuse c info => .next (s.takeTurn.refuse c info) := by
  obtain ⟨hfault, hrefused, hturn, haccesses, hhalted⟩ := hs
  have hstep : s.hostHasStep = true := by simp [State.hostHasStep, hhalted]
  have hfetch : s.takeTurn.fetch = s.fetch := by simp [State.fetch]
  have hnext : s.takeTurn.nextInstr = s.fetch.map fun i => (i, s.takeTurn) := by
    simp [State.nextInstr, haccesses, hfetch]
  rw [step_host hfault hrefused hstep hturn, hostStep, State.takeTurn_hostHasStep, if_pos hstep, hnext]
  cases s.fetch <;> rfl

/-- Settles O44: the statement fetched is the word decoded. -/
theorem stepRunsTheDecodedStatement : Obligations.StepRunsTheDecodedStatement := by
  intro s w i hs hw hdec
  have hfetch : s.fetch = .ok i := by simp only [State.fetch, hw, hdec, Access.ofDecode_ok]
  rw [step_statement hs, hfetch]

/-- Settles O45: a pending access is what the host performs next. -/
theorem stepRunsTheDecodedAccess : Obligations.StepRunsTheDecodedAccess := by
  intro s a rest hfault hrefused hturn hhalted haccesses
  have hstep : s.hostHasStep = true := by simp [State.hostHasStep, hhalted]
  have hnext : s.takeTurn.nextInstr = (Access.ofDecode (decodeHostAccess s.cfg a)).map fun i =>
      (i, { s.takeTurn with env := { s.takeTurn.env with accesses := rest } }) := by
    simp [State.nextInstr, haccesses]
  rw [step_host hfault hrefused hstep hturn, hostStep, State.takeTurn_hostHasStep, if_pos hstep, hnext]
  refine ⟨fun i hdec => ?_, fun c info hdec => ?_⟩
  · rw [hdec, Access.ofDecode_ok, Access.map_ok]
  · rw [hdec, Access.ofDecode_error, Access.map_refuse]

/-- A machine in which no agent has a step stops (R271). -/
theorem State.stopped_of_no_step {s : State} (hfault : s.out.fault = none) (hrefused : s.out.refused = none)
    (hhost : s.hostHasStep = false) (hengine : s.engineHasStep = false) : s.stopped = some (.fault .noAgentHasStep) := by
  simp [State.stopped, hfault, hrefused, hhost, hengine]

/-- Settles O46: `stopped` says whether any agent steps, and the turn which one. -/
theorem stepOfEachAgent : Obligations.StepOfEachAgent := by
  refine ⟨fun s e hfault hrefused hsome hturn => ?_, fun s hs hout => ?_,
    fun s hfault hrefused hengine hturn hhalted => ?_, fun s hfault hrefused hhalted hengine => ?_⟩
  · simp only [step, State.stopped_eq_none hfault hrefused hsome, hturn]
  · have hfetch : s.fetch = .fault .hostPcOut (.index s.host.pc) := by
      rw [State.fetch, List.getElem?_eq_none hout]
    rw [step_statement hs, hfetch]
  · have hhost : s.takeTurn.hostHasStep = false := by simp [State.hostHasStep, hhalted]
    simp [step, State.stopped_eq_none hfault hrefused (.inr hengine), hturn, hostStep, hhost]
  · have hhost : s.hostHasStep = false := by simp [State.hostHasStep, hhalted]
    rw [step, State.stopped_of_no_step hfault hrefused hhost hengine]

/-! ### What a step can do to the controller -/

/-- What the model's own inputs are does not matter to the controller's frame. -/
theorem ControllerFrame.of_env {s t : State} {env : Env} (h : ControllerFrame { s with env := env } t) :
    ControllerFrame s t :=
  ⟨h.en, h.ph, h.ab, h.log, h.cmd, h.rx, h.cfg, h.adm⟩

/-- What a step is to the controller: the host's, within the frame of an instruction, or the engine's. Both begin at the
state with the turn taken, which differs in the model's own inputs alone. -/
inductive StepMove (s t : State) : Prop
  | host (hturn : s.turn = .host) (hframe : ControllerFrame s t) (hcfg : t.cfg = s.cfg) (hprog : t.prog = s.prog)
  | engine (e : EngineStep) (env : Env) (hturn : s.turn = .engine e) (hmove : EngineMove { s with env := env } e t)

theorem step_move {s t : State} (h : step s = .next t) : StepMove s t := by
  obtain ⟨env, henv⟩ := s.takeTurn_eq
  have hcases := step_next h
  rw [henv] at hcases
  obtain (⟨hturn, rfl | ⟨u, ⟨acc, rfl⟩, i, hi⟩⟩ | ⟨hturn, ⟨c, info, rfl⟩ | ⟨c, info, rfl⟩⟩) | ⟨e, hturn, rfl⟩ := hcases
  · exact .host hturn (.of_same rfl rfl rfl) rfl rfl
  · obtain ⟨hframe, hcfg, hprog⟩ := exec_controllerFrame hi
    exact .host hturn (.of_env (s := s) hframe) hcfg hprog
  · exact .host hturn (.of_same rfl rfl rfl) rfl rfl
  · exact .host hturn (.of_same rfl rfl rfl) rfl rfl
  · exact .engine e env hturn (engineStep_move _ e)

/-! ### The invariant of R314 -/

/-- The host pushes only on an enabled controller whose FIFO has room. -/
theorem ControllerFrame.inv {s t : State} (h : ControllerFrame s t) (hcfg : t.cfg = s.cfg) (hs : s.Inv) : t.Inv := by
  obtain ⟨hdis, hcmd, hrx⟩ := hs
  refine ⟨fun hen => ?_, ?_, ?_⟩
  · rw [h.en] at hen
    obtain ⟨hq, hr, hph, hab⟩ := hdis hen
    refine ⟨?_, ?_, h.ph.trans hph, h.ab.trans hab⟩
    · obtain hsame | ⟨hon, -, -⟩ := h.cmd
      · exact hsame.trans hq
      · exact absurd hon (ne_true_of_eq_false hen)
    · obtain hsame | ⟨b, hpop⟩ := h.rx
      · exact hsame.trans hr
      · cases hr.symm.trans hpop
  · rw [hcfg]
    obtain hsame | ⟨-, hroom, e, hpush⟩ := h.cmd
    · rw [hsame]
      exact hcmd
    · rw [hpush, List.length_append]
      exact Nat.lt_of_le_of_ne hcmd hroom
  · rw [hcfg]
    obtain hsame | ⟨b, hpop⟩ := h.rx
    · rw [hsame]
      exact hrx
    · rw [hpop, List.length_cons] at hrx
      exact Nat.le_of_succ_le hrx

/-- An enabled controller's part of R314. -/
theorem State.inv_of_enabled {s : State} (hen : s.ctl.enStatus = true) (hcmd : s.ctl.cmdFifo.length ≤ s.cfg.txDepth)
    (hrx : s.ctl.rxFifo.length ≤ s.cfg.rxDepth) : s.Inv :=
  ⟨fun hdis => absurd hen (ne_true_of_eq_false hdis), hcmd, hrx⟩

/-- The engine queues only bytes received where the RX FIFO has room, and a disable sync empties everything. -/
theorem EngineMove.inv {s t : State} {e : EngineStep} (h : EngineMove s e t) (hs : s.Inv) : t.Inv := by
  obtain ⟨hdis, hcmd, hrx⟩ := hs
  cases h with
  | pass => exact ⟨hdis, hcmd, hrx⟩
  | fault => exact ⟨hdis, hcmd, hrx⟩
  | enableSync => exact State.inv_of_enabled rfl hcmd hrx
  | disableSync => exact ⟨fun _ => ⟨rfl, rfl, rfl, rfl⟩, Nat.zero_le _, Nat.zero_le _⟩
  | stop hq hen => exact State.inv_of_enabled hen hcmd hrx
  | discard hen hq =>
    rw [hq, List.length_cons] at hcmd
    exact State.inv_of_enabled hen (Nat.le_of_succ_le hcmd) hrx
  | @take _ entry rest rx events ok ph acks bytes he hen hab hq hnew =>
    rw [hq, List.length_cons] at hcmd
    refine State.inv_of_enabled hen ?_ ?_
    · cases ok with
      | false => exact Nat.zero_le _
      | true => exact Nat.le_of_succ_le hcmd
    · obtain rfl | ⟨hroom, b, rfl⟩ := hnew
      · exact hrx
      · exact (List.length_append (as := s.ctl.rxFifo)).trans_le (Nat.lt_of_le_of_ne hrx hroom)

/-- Settles O49: the host's frame and every effect of the engine keep it. -/
theorem stepKeepsTheInvariant : Obligations.StepKeepsTheInvariant := by
  intro s t hs h
  cases step_move h with
  | host _ hframe hcfg => exact hframe.inv hcfg hs
  | engine _ _ _ hmove => exact hmove.inv hs

/-- Settles O50, by induction on the run: `AnyLaunch` asks for the invariant, which no input of the model enters. -/
theorem reachableStatesMeetTheInvariant : Obligations.ReachableStatesMeetTheInvariant := by
  intro s h
  induction h with
  | start s hlaunch =>
    obtain ⟨-, -, -, -, hinv⟩ := hlaunch
    exact hinv
  | next s t _ hadmits ih =>
    obtain ⟨turn, acks, bytes, hstep⟩ := hadmits
    refine stepKeepsTheInvariant _ t ?_ hstep
    exact ih

/-! ### The framing of the bus log (R43, R45, R173 to R177) -/

/-- Events that move the bus from where the old phase stands to where the new one stands keep the framing. -/
theorem State.framed_of_events {s t : State} (hs : s.Framed) {events : List BusEvent}
    (hlog : t.ctl.busLog = s.ctl.busLog ++ events)
    (hevents : busFrameAfter (some s.ctl.phase.frame) events = some t.ctl.phase.frame) : t.Framed := by
  rw [State.Framed, hlog, busFrame_append, hs, hevents]

theorem EngineMove.framed {s t : State} {e : EngineStep} (h : EngineMove s e t) (hs : s.Framed) : t.Framed := by
  cases h with
  | pass | fault | enableSync | discard => exact hs
  | disableSync =>
    by_cases hph : s.ctl.phase = .idle
    · refine State.framed_of_events hs ((if_pos hph).trans (List.append_nil _).symm) ?_
      rw [hph]
      rfl
    · exact State.framed_of_events hs (if_neg hph) (busFrameAfter_stop hph)
  | stop _ _ hph => exact State.framed_of_events hs rfl (busFrameAfter_stop hph)
  | take ok ph acks bytes he hen hab hq hnew hevents => exact State.framed_of_events hs rfl hevents

/-- Settles O51: the host leaves the log and the phase alone, and the events of every engine step lead from the old phase
to the new one. -/
theorem stepKeepsTheBusLogFramed : Obligations.StepKeepsTheBusLogFramed := by
  intro s t hs h
  cases step_move h with
  | host _ hframe =>
    rw [State.Framed, hframe.log, hframe.ph]
    exact hs
  | engine _ _ _ hmove => exact hmove.framed hs

/-! ### The other invariants -/

/-- Settles O52: the host writes only admitted values (`ControllerFrame.adm`), and the engine none. -/
theorem stepKeepsRegistersAdmitted : Obligations.StepKeepsRegistersAdmitted := by
  intro s t hs h
  cases step_move h with
  | host _ hframe => exact hframe.adm hs
  | engine _ _ _ hmove =>
    have hframe := hmove.frame
    exact State.regsAdmitted_of_same hframe.con hframe.sys hframe.cfg hs

/-- Settles O53: neither the frame of an instruction nor that of the engine holds a change of them. -/
theorem stepKeepsProgramAndParameters : Obligations.StepKeepsProgramAndParameters := by
  intro s t h
  cases step_move h with
  | host _ _ hcfg hprog => exact ⟨hprog, hcfg⟩
  | engine _ _ _ hmove =>
    have hframe := hmove.frame
    exact ⟨hframe.prog, hframe.cfg⟩

/-- The engine only appends to the bus log. -/
theorem EngineMove.log {s t : State} {e : EngineStep} (h : EngineMove s e t) :
    ∃ events, t.ctl.busLog = s.ctl.busLog ++ events := by
  cases h with
  | pass | fault | enableSync | discard => exact ⟨[], (List.append_nil _).symm⟩
  | disableSync =>
    by_cases hph : s.ctl.phase = .idle
    · exact ⟨[], (if_pos hph).trans (List.append_nil _).symm⟩
    · exact ⟨[.stop], if_neg hph⟩
  | take | stop => exact ⟨_, rfl⟩

/-- Settles O54: the host leaves the log alone, and the engine appends (`EngineMove.log`). -/
theorem busLogOnlyGrows : Obligations.BusLogOnlyGrows := by
  intro s t h
  cases step_move h with
  | host _ hframe => exact ⟨[], hframe.log.trans (List.append_nil _).symm, fun _ => rfl⟩
  | engine e _ hturn hmove =>
    obtain ⟨events, hlog⟩ := hmove.log
    exact ⟨events, hlog, fun hhost => by cases hturn.symm.trans hhost⟩

/-- What an engine step does to the command FIFO: it leaves it alone, takes its head or empties it, by a disable sync or a
missing acknowledgement (R172, R177, R178). -/
theorem EngineMove.cmdFifo {s t : State} {e : EngineStep} (h : EngineMove s e t) :
    t.ctl.cmdFifo = s.ctl.cmdFifo ∨ (∃ entry, s.ctl.cmdFifo = entry :: t.ctl.cmdFifo)
      ∨ (t.ctl.cmdFifo = [] ∧ (e = .disableSync
          ∨ (s.ctl.abortLatch = false ∧ t.ctl.abortLatch = true ∧ (e = .takeStart ∨ e = .takeData ∨ e = .takeRead)))) := by
  cases h with
  | pass | fault | enableSync | stop => exact .inl rfl
  | disableSync => exact .inr (.inr ⟨rfl, .inl rfl⟩)
  | discard _ hq => exact .inr (.inl ⟨_, hq⟩)
  | take ok ph acks bytes he hen hab hq =>
    cases ok with
    | true => exact .inr (.inl ⟨_, hq⟩)
    | false => exact .inr (.inr ⟨rfl, .inr ⟨hab, rfl, he⟩⟩)

/-- What an engine step does to the RX FIFO: it leaves it alone, appends a byte, or empties it by a disable sync. -/
theorem EngineMove.rxFifo {s t : State} {e : EngineStep} (h : EngineMove s e t) :
    t.ctl.rxFifo = s.ctl.rxFifo ∨ (∃ b, t.ctl.rxFifo = s.ctl.rxFifo ++ [b]) ∨ (t.ctl.rxFifo = [] ∧ e = .disableSync) := by
  cases h with
  | pass | fault | enableSync | stop | discard => exact .inl rfl
  | disableSync => exact .inr (.inr ⟨rfl, rfl⟩)
  | take ok ph acks bytes he hen hab hq hnew => exact hnew.imp_right fun ⟨_, hb⟩ => .inl hb

/-- Settles O55: the host appends to the command FIFO and takes from the RX FIFO, and the engine the other way round. -/
theorem fifosKeepOrder : Obligations.FifosKeepOrder := by
  intro s t h
  cases step_move h with
  | host _ hframe =>
    refine ⟨?_, ?_⟩
    · obtain hsame | ⟨-, -, hpush⟩ := hframe.cmd
      · exact .inl hsame
      · exact .inr (.inl hpush)
    · obtain hsame | hpop := hframe.rx
      · exact .inl hsame
      · exact .inr (.inr (.inl hpop))
  | engine e _ hturn hmove =>
    simp only [hturn, Turn.engine.injEq]
    refine ⟨?_, ?_⟩
    · obtain hsame | hpop | hempty := hmove.cmdFifo
      · exact .inl hsame
      · exact .inr (.inr (.inl hpop))
      · exact .inr (.inr (.inr hempty))
    · obtain hsame | hpush | hempty := hmove.rxFifo
      · exact .inl hsame
      · exact .inr (.inl hpush)
      · exact .inr (.inr (.inr hempty))

/-- Settles O56: the host's writes are refused while locked (`ControllerFrame.cfg`), and the engine makes none. -/
theorem configurationIsLockedWhileEnabled : Obligations.ConfigurationIsLockedWhileEnabled := by
  intro s t hlocked h
  cases step_move h with
  | host _ hframe => exact hframe.cfg hlocked
  | engine _ _ _ hmove =>
    have hframe := hmove.frame
    exact ⟨hframe.con, hframe.tar, hframe.hcnt, hframe.lcnt⟩

/-- An engine step changes the enable status only as a sync, to what is requested. -/
theorem EngineMove.enStatus {s t : State} {e : EngineStep} (h : EngineMove s e t)
    (hne : t.ctl.enStatus ≠ s.ctl.enStatus) :
    t.ctl.enStatus = s.ctl.enReq ∧ (e = .enableSync ∨ e = .disableSync) := by
  cases h with
  | pass | fault | take | stop | discard => exact absurd rfl hne
  | enableSync hreq => exact ⟨hreq.symm, .inl rfl⟩
  | disableSync hreq => exact ⟨hreq.symm, .inr rfl⟩

/-- Only the disable sync clears the abort latch: entries are taken while it is clear. -/
theorem EngineMove.abortLatch {s t : State} {e : EngineStep} (h : EngineMove s e t) (hs : s.ctl.abortLatch = true)
    (ht : t.ctl.abortLatch = false) : e = .disableSync := by
  cases h with
  | pass | fault | enableSync | stop | discard => exact absurd hs (ne_true_of_eq_false ht)
  | disableSync => rfl
  | take _ _ _ _ _ _ hab => exact absurd hs (ne_true_of_eq_false hab)

/-- Settles O57: the host changes neither, and `EngineMove` says which step of the engine does. -/
theorem onlySyncStepsChangeStatus : Obligations.OnlySyncStepsChangeStatus := by
  intro s t h
  cases step_move h with
  | host _ hframe =>
    refine ⟨fun hne => absurd hframe.en hne, fun hs ht => ?_⟩
    exact absurd (hframe.ab.symm.trans ht) (ne_false_of_eq_true hs)
  | engine e _ hturn hmove =>
    simp only [hturn, Turn.engine.injEq]
    exact ⟨hmove.enStatus, hmove.abortLatch⟩

/-- A `ResetLaunch` state has nothing queued, open, latched or written. -/
theorem State.ResetLaunch.anyLaunch {s : State} (h : s.ResetLaunch) : s.AnyLaunch := by
  obtain ⟨hctl, hsys, hhost, hout⟩ := h
  refine ⟨hhost, by rw [hctl]; rfl, hout, ?_, ?_⟩
  · rw [State.RegsAdmitted, hctl, hsys]
    exact ⟨.inl rfl, .inl rfl, .inl rfl, .inl rfl⟩
  · rw [State.Inv, hctl]
    exact ⟨fun _ => ⟨rfl, rfl, rfl, rfl⟩, Nat.zero_le _, Nat.zero_le _⟩

/-- Settles O48: reset is a `ResetLaunch`, and so meets what `AnyLaunch` asks for. -/
theorem resetMeetsTheInvariants : Obligations.ResetMeetsTheInvariants := by
  have hreset : State.reset.ResetLaunch := ⟨rfl, rfl, rfl, rfl⟩
  obtain ⟨-, -, -, hregs, hinv⟩ := hreset.anyLaunch
  exact ⟨hinv, rfl, hregs, by decide, fun _ => State.ResetLaunch.anyLaunch⟩

end Sys2Proof.Machine
end

section
/-! PROOFS about the pseudo-instructions (30_encoding.md R118, 43_host_program.md R265 to R269): their words decode to their
statements, and the statements are those the rules list. -/

namespace Sys2Proof

/-! ### The words of host statements (R112) -/

/-- A host statement the encoding admits: no register access of its own, and no shift by more than 31. -/
def Instr.isStatement (i : Instr) : Bool := !i.isBus && i.wellFormed

/-- The words host statements are written as decode to them, one by one. -/
theorem decodeHost_hostWords (P : Params) {is : List Instr} (h : is.all Instr.isStatement = true) :
    (hostWords P is).map decodeHost = is.map .ok := by
  induction is with
  | nil => rfl
  | cons i is ih =>
    rw [List.all_cons, Bool.and_eq_true, Instr.isStatement, Bool.and_eq_true, Bool.not_eq_true'] at h
    obtain ⟨⟨hbus, hwf⟩, his⟩ := h
    obtain ⟨w, hw, hdec⟩ := encode_host P hbus hwf
    have hcons : hostWords P (i :: is) = w :: hostWords P is := List.filterMap_cons_some (by rw [hw])
    rw [hcons, List.map_cons, List.map_cons, hdec, ih his]

/-! ### The expansions are host statements -/

theorem expandDrains_isStatement (b base n : Nat) : (expandDrains b base n).all Instr.isStatement = true := by
  induction n generalizing b base with
  | zero => rfl
  | succ n ih => exact ih (b + 1) (base + 5)

theorem Pseudo.expand_isStatement (P : Params) (base : Nat) (p : Pseudo) :
    (p.expand P base).all Instr.isStatement = true := by
  cases p with
  | pollnz | muxinit | seten | init | readreg | writereg | writeregv => rfl
  | readburst a n vb =>
    have hreads : (List.replicate n (Instr.wri 0x02#8 readToken)).all Instr.isStatement = true :=
      List.all_eq_true.mpr fun i hi => by rw [List.eq_of_mem_replicate hi]; rfl
    rw [Pseudo.expand, expandReadburst, List.all_append, List.all_append, List.all_append, hreads, expandDrains_isStatement]
    rfl

/-! ### The drains of a burst (R269) -/

/-- The `i`-th drain of a burst reads into the `i`-th variable and starts five statements after the one before. -/
theorem expandDrains_eq_flatMap (b base n : Nat) :
    expandDrains b base n = (List.range n).flatMap fun i => expandDrain (Fin.ofNat 16 (b + i)) (base + 5 * i) := by
  induction n generalizing b base with
  | zero => rfl
  | succ n ih =>
    have hnext : ∀ i, expandDrain (Fin.ofNat 16 (b + 1 + i)) (base + 5 + 5 * i)
        = expandDrain (Fin.ofNat 16 (b + (i + 1))) (base + 5 * (i + 1)) := fun i => by
      rw [Nat.add_assoc, Nat.add_comm 1 i, Nat.add_assoc, Nat.mul_add, Nat.mul_one, Nat.add_comm 5 (5 * i)]
    rw [expandDrains, ih, List.range_succ_eq_map, List.flatMap_cons, List.flatMap_map]
    simp only [hnext]
    rfl

/-! ### The operands admitted (R266, R268, R269) -/

theorem VarIx.notScratch_iff (v : VarIx) : VarIx.notScratch v = true ↔ v.val < 12 := decide_eq_true_iff

theorem Pseudo.admitted_seten_iff (code : Word) (v : VarIx) :
    (Pseudo.seten code v).admitted = true ↔ (code = 1#32 ∨ code = 2#32) ∧ v.val < 12 := by
  simp [Pseudo.admitted, VarIx.notScratch_iff]

/-- Settles O58: the words decode because every expansion is made of host statements; the expansions are those listed by
definition, but that a burst's drains are listed by their number (`expandDrains_eq_flatMap`). -/
theorem pseudoInstructionsExpandToStatements : Obligations.PseudoInstructionsExpandToStatements := by
  intro P base
  refine ⟨fun p => decodeHost_hostWords P (p.expand_isStatement P base), fun _ _ => rfl, rfl, fun _ _ => rfl, fun _ => rfl,
    fun _ _ => rfl, fun _ _ => rfl, fun _ _ => rfl, fun a n vb => ?_, fun code v a n =>
    ⟨Pseudo.admitted_seten_iff code v, VarIx.notScratch_iff v, VarIx.notScratch_iff v, decide_eq_true_iff⟩⟩
  exact congrArg ([.txb, .wri 0x02#8 (P.startValue a)] ++ List.replicate n (.wri 0x02#8 readToken) ++ [.txe] ++ ·)
    (expandDrains_eq_flatMap vb.val (base + n + 3) n)

end Sys2Proof
end
